-- ==== Sys2Proof/Word.lean ====
section
/-! DEFINITION. Sys2Proof/Word.lean: the word types. Data is 8 bits wide, CPU addresses 16 bits, PPU bus
addresses 14 bits (spec 00 R6, R9). -/

namespace Sys2Proof

/-- An 8-bit datum (00 R6, R9). -/
abbrev Byte := BitVec 8

/-- A 16-bit CPU address or 16-bit value (00 R6). -/
abbrev Word := BitVec 16

/-- A 14-bit PPU bus address (00 R6). -/
abbrev PpuAddr := BitVec 14

/-- A byte memory: the bytes that differ from what an unlisted address reads as, by rising address. -/
abbrev Memory := List Host.Cell

end Sys2Proof
end

