-- ==== Sys2Proof/Syntax.lean ====
section
/-! DEFINITION. Sys2Proof/Syntax.lean: the instructions, one constructor for each row of the opcode
table (spec 30 R106), with the operand the row's format carries (30 R101, R105), and the names of the
thirteen addressing modes (30 R104) and of the 56 mnemonics (30 R108). -/

namespace Sys2Proof

/-- The 13 addressing modes (30 R104). -/
inductive Mode where
  | imp | acc | imm | zp | zpx | zpy | rel | abs | abx | aby | ind | izx | izy
  deriving DecidableEq, Repr

/-- The 56 mnemonics (30 R108). -/
inductive Mnemonic where
  | lda | ldx | ldy | sta | stx | sty | tax | tay | txa | tya | tsx | txs
  | adc | sbc | and | ora | eor | cmp | cpx | cpy | bit
  | asl | lsr | rol | ror | inc | dec | inx | iny | dex | dey
  | bcc | bcs | beq | bne | bmi | bpl | bvc | bvs | jmp | jsr | rts
  | pha | php | pla | plp | clc | sec | cli | sei | cld | sed | clv | nop | brk | rti
  deriving DecidableEq, Repr

/-- The operand bytes of an instruction, assembled as 30 R105 says: nothing (format F1), one byte, a
16-bit little-endian word, or the signed displacement of the relative mode. -/
inductive Operand where
  | none
  | byte (b : Byte)
  | word (w : Word)
  | rel (d : Int)
  deriving DecidableEq, Repr

/-- The instructions, one constructor for each row of the opcode table (30 R106). The name is the
mnemonic followed by the addressing mode, where the mnemonic has more than one or its mode carries an
operand; a branch carries its displacement, a signed number in -128 to 127 (30 R105; the range is
checked by `Instr.WellFormed`). -/
inductive Instr where
  -- LoadStore
  | ldaImm (v : Byte)
  | ldaZp (zp : Byte)
  | ldaZpx (zp : Byte)
  | ldaAbs (a : Word)
  | ldaAbx (a : Word)
  | ldaAby (a : Word)
  | ldaIzx (zp : Byte)
  | ldaIzy (zp : Byte)
  | ldxImm (v : Byte)
  | ldxZp (zp : Byte)
  | ldxZpy (zp : Byte)
  | ldxAbs (a : Word)
  | ldxAby (a : Word)
  | ldyImm (v : Byte)
  | ldyZp (zp : Byte)
  | ldyZpx (zp : Byte)
  | ldyAbs (a : Word)
  | ldyAbx (a : Word)
  | staZp (zp : Byte)
  | staZpx (zp : Byte)
  | staAbs (a : Word)
  | staAbx (a : Word)
  | staAby (a : Word)
  | staIzx (zp : Byte)
  | staIzy (zp : Byte)
  | stxZp (zp : Byte)
  | stxZpy (zp : Byte)
  | stxAbs (a : Word)
  | styZp (zp : Byte)
  | styZpx (zp : Byte)
  | styAbs (a : Word)
  | tax
  | tay
  | txa
  | tya
  | tsx
  | txs
  -- Arith
  | adcImm (v : Byte)
  | adcZp (zp : Byte)
  | adcZpx (zp : Byte)
  | adcAbs (a : Word)
  | adcAbx (a : Word)
  | adcAby (a : Word)
  | adcIzx (zp : Byte)
  | adcIzy (zp : Byte)
  | sbcImm (v : Byte)
  | sbcZp (zp : Byte)
  | sbcZpx (zp : Byte)
  | sbcAbs (a : Word)
  | sbcAbx (a : Word)
  | sbcAby (a : Word)
  | sbcIzx (zp : Byte)
  | sbcIzy (zp : Byte)
  | andImm (v : Byte)
  | andZp (zp : Byte)
  | andZpx (zp : Byte)
  | andAbs (a : Word)
  | andAbx (a : Word)
  | andAby (a : Word)
  | andIzx (zp : Byte)
  | andIzy (zp : Byte)
  | oraImm (v : Byte)
  | oraZp (zp : Byte)
  | oraZpx (zp : Byte)
  | oraAbs (a : Word)
  | oraAbx (a : Word)
  | oraAby (a : Word)
  | oraIzx (zp : Byte)
  | oraIzy (zp : Byte)
  | eorImm (v : Byte)
  | eorZp (zp : Byte)
  | eorZpx (zp : Byte)
  | eorAbs (a : Word)
  | eorAbx (a : Word)
  | eorAby (a : Word)
  | eorIzx (zp : Byte)
  | eorIzy (zp : Byte)
  | cmpImm (v : Byte)
  | cmpZp (zp : Byte)
  | cmpZpx (zp : Byte)
  | cmpAbs (a : Word)
  | cmpAbx (a : Word)
  | cmpAby (a : Word)
  | cmpIzx (zp : Byte)
  | cmpIzy (zp : Byte)
  | cpxImm (v : Byte)
  | cpxZp (zp : Byte)
  | cpxAbs (a : Word)
  | cpyImm (v : Byte)
  | cpyZp (zp : Byte)
  | cpyAbs (a : Word)
  | bitZp (zp : Byte)
  | bitAbs (a : Word)
  -- Shift
  | aslAcc
  | aslZp (zp : Byte)
  | aslZpx (zp : Byte)
  | aslAbs (a : Word)
  | aslAbx (a : Word)
  | lsrAcc
  | lsrZp (zp : Byte)
  | lsrZpx (zp : Byte)
  | lsrAbs (a : Word)
  | lsrAbx (a : Word)
  | rolAcc
  | rolZp (zp : Byte)
  | rolZpx (zp : Byte)
  | rolAbs (a : Word)
  | rolAbx (a : Word)
  | rorAcc
  | rorZp (zp : Byte)
  | rorZpx (zp : Byte)
  | rorAbs (a : Word)
  | rorAbx (a : Word)
  | incZp (zp : Byte)
  | incZpx (zp : Byte)
  | incAbs (a : Word)
  | incAbx (a : Word)
  | decZp (zp : Byte)
  | decZpx (zp : Byte)
  | decAbs (a : Word)
  | decAbx (a : Word)
  | inx
  | iny
  | dex
  | dey
  -- Branch
  | bcc (d : Int)
  | bcs (d : Int)
  | beq (d : Int)
  | bne (d : Int)
  | bmi (d : Int)
  | bpl (d : Int)
  | bvc (d : Int)
  | bvs (d : Int)
  | jmpAbs (a : Word)
  | jmpInd (a : Word)
  | jsr (a : Word)
  | rts
  -- System
  | pha
  | php
  | pla
  | plp
  | clc
  | sec
  | cli
  | sei
  | cld
  | sed
  | clv
  | nop
  | brk
  | rti
  deriving DecidableEq, Repr

/-- The operand an instruction carries (30 R101, R105). -/
def Instr.operand : Instr → Operand
  | .tax | .tay | .txa | .tya | .tsx | .txs | .aslAcc | .lsrAcc | .rolAcc | .rorAcc | .inx | .iny
  | .dex | .dey | .rts | .pha | .php | .pla | .plp | .clc | .sec | .cli | .sei | .cld | .sed | .clv
  | .nop | .brk | .rti => .none
  | .ldaImm b | .ldaZp b | .ldaZpx b | .ldaIzx b | .ldaIzy b | .ldxImm b | .ldxZp b | .ldxZpy b
  | .ldyImm b | .ldyZp b | .ldyZpx b | .staZp b | .staZpx b | .staIzx b | .staIzy b | .stxZp b
  | .stxZpy b | .styZp b | .styZpx b | .adcImm b | .adcZp b | .adcZpx b | .adcIzx b | .adcIzy b
  | .sbcImm b | .sbcZp b | .sbcZpx b | .sbcIzx b | .sbcIzy b | .andImm b | .andZp b | .andZpx b
  | .andIzx b | .andIzy b | .oraImm b | .oraZp b | .oraZpx b | .oraIzx b | .oraIzy b | .eorImm b
  | .eorZp b | .eorZpx b | .eorIzx b | .eorIzy b | .cmpImm b | .cmpZp b | .cmpZpx b | .cmpIzx b
  | .cmpIzy b | .cpxImm b | .cpxZp b | .cpyImm b | .cpyZp b | .bitZp b | .aslZp b | .aslZpx b
  | .lsrZp b | .lsrZpx b | .rolZp b | .rolZpx b | .rorZp b | .rorZpx b | .incZp b | .incZpx b
  | .decZp b | .decZpx b => .byte b
  | .ldaAbs w | .ldaAbx w | .ldaAby w | .ldxAbs w | .ldxAby w | .ldyAbs w | .ldyAbx w | .staAbs w
  | .staAbx w | .staAby w | .stxAbs w | .styAbs w | .adcAbs w | .adcAbx w | .adcAby w | .sbcAbs w
  | .sbcAbx w | .sbcAby w | .andAbs w | .andAbx w | .andAby w | .oraAbs w | .oraAbx w | .oraAby w
  | .eorAbs w | .eorAbx w | .eorAby w | .cmpAbs w | .cmpAbx w | .cmpAby w | .cpxAbs w | .cpyAbs w
  | .bitAbs w | .aslAbs w | .aslAbx w | .lsrAbs w | .lsrAbx w | .rolAbs w | .rolAbx w | .rorAbs w
  | .rorAbx w | .incAbs w | .incAbx w | .decAbs w | .decAbx w | .jmpAbs w | .jmpInd w | .jsr w => .word w
  | .bcc d | .bcs d | .beq d | .bne d | .bmi d | .bpl d | .bvc d | .bvs d => .rel d

end Sys2Proof
end

