-- ==== Sys2Proof/Config.lean ====
section
/-! DEFINITION. Sys2Proof/Config.lean: the implementation parameters of spec 00 R7 and the free values of
00 R10. A `Config` is plain data carried by the state (log 2), so that a claim about every state is a
claim about every configuration. -/

namespace Sys2Proof

/-- `BUS_CONFIG` (20 R66): the conformance harness's flat memory (R67) or the console map (R68). -/
inductive BusConfig where
  | flat64k
  | nesNrom
  deriving DecidableEq, Repr

/-- The parameters the document does not fix (00 R7), each named as there. -/
structure Config where
  /-- `BUS_CONFIG` -/
  bus : BusConfig
  /-- `EXTRA_OPCODES`: entries beyond the 151, to which the spec gives no semantics (30 R110) -/
  extraOpcodes : List Byte
  /-- `NMI_CYCLES` -/
  nmiCycles : Nat
  /-- `IRQ_CYCLES` -/
  irqCycles : Nat
  /-- `PRG_SIZE` -/
  prgSize : Nat
  /-- `PRG_RAM_PRESENT` -/
  prgRamPresent : Bool
  /-- `NT_SIZE` -/
  ntSize : Nat
  /-- `CHR_WRITABLE` -/
  chrWritable : Bool
  /-- `MASK_GATES_RENDERING` -/
  maskGates : Bool
  /-- `SPRITE_FLIP` -/
  spriteFlip : Bool
  deriving DecidableEq, Repr

/-- The defaults of 00 R7. DESIGN CHOICE (log 2): of the two `BUS_CONFIG` maps, which the spec leaves
"per use", the harness map, and of the two usual `PRG_SIZE` values 32768. -/
def Config.default : Config where
  bus := .flat64k
  extraOpcodes := []
  nmiCycles := 7
  irqCycles := 7
  prgSize := 32768
  prgRamPresent := false
  ntSize := 1024
  chrWritable := false
  maskGates := false
  spriteFlip := true

/-- The free values of `draw(n)` (00 R10): the byte of the k-th draw of an epoch, with no body, so that nothing
can be proved of it. A draw of fewer bits takes the low ones (log 6). -/
opaque Config.freeByte : Nat → Nat → Byte

end Sys2Proof
end

