-- ==== Sys2Proof/WellFormed.lean ====
section
/-! DEFINITION. Sys2Proof/WellFormed.lean: which instruction terms stand for an encoding, and which
configurations the spec admits. -/

namespace Sys2Proof

/-- An operand fits its encoding: bytes and words by their type, a displacement when it is in the range
of a signed byte, -128 to 127 (30 R105). -/
def Operand.WellFormed : Operand → Bool
  | .none => true
  | .byte _ => true
  | .word _ => true
  | .rel d => decide (-128 ≤ d) && decide (d ≤ 127)

/-- An instruction is well formed when its operand fits its encoding (30 R105). -/
def Instr.WellFormed (i : Instr) : Bool := i.operand.WellFormed

/-- A configuration the spec admits: `PRG_SIZE` a positive multiple of 16384, name-table RAM not empty
(00 R7). -/
def Config.WellFormed (c : Config) : Bool :=
  decide (0 < c.prgSize) && decide (c.prgSize % 16384 = 0) && decide (0 < c.ntSize)

end Sys2Proof
end

