-- ==== Sys2Proof/Decode.lean ====
section
/-! DEFINITION. Sys2Proof/Decode.lean: the decoder (total on any bytes) and, after it, the encoder,
written from the opcode table of spec 30 R106 and the operand assembly of 30 R105. -/

namespace Sys2Proof

/-- The low byte of a word. -/
def loByte (w : Word) : Byte := w.setWidth 8

/-- The high byte of a word, its page (00 R8). -/
def hiByte (w : Word) : Byte := (w >>> 8).setWidth 8

/-- The word of a low and a high byte (00 R10 `hi ++ lo`). -/
def mkWord (lo hi : Byte) : Word := (hi.setWidth 16 <<< 8) ||| lo.setWidth 16

/-- How an opcode's operand bytes make its instruction: format F1, F2 or F3 (30 R101), an F2 byte being
read as unsigned or, in the relative mode, as a signed displacement (30 R105). -/
inductive Template where
  | imp (i : Instr)
  | byte (f : Byte → Instr)
  | rel (f : Int → Instr)
  | word (f : Word → Instr)

/-- Opcodes 0x00 to 0x0F (30 R106, R107). -/
def opcodeRow0 : List (Byte × Template) := [
  (0x00#8, .imp Instr.brk),
  (0x01#8, .byte Instr.oraIzx),
  (0x05#8, .byte Instr.oraZp),
  (0x06#8, .byte Instr.aslZp),
  (0x08#8, .imp Instr.php),
  (0x09#8, .byte Instr.oraImm),
  (0x0A#8, .imp Instr.aslAcc),
  (0x0D#8, .word Instr.oraAbs),
  (0x0E#8, .word Instr.aslAbs)]

/-- Opcodes 0x10 to 0x1F (30 R106, R107). -/
def opcodeRow1 : List (Byte × Template) := [
  (0x10#8, .rel Instr.bpl),
  (0x11#8, .byte Instr.oraIzy),
  (0x15#8, .byte Instr.oraZpx),
  (0x16#8, .byte Instr.aslZpx),
  (0x18#8, .imp Instr.clc),
  (0x19#8, .word Instr.oraAby),
  (0x1D#8, .word Instr.oraAbx),
  (0x1E#8, .word Instr.aslAbx)]

/-- Opcodes 0x20 to 0x2F (30 R106, R107). -/
def opcodeRow2 : List (Byte × Template) := [
  (0x20#8, .word Instr.jsr),
  (0x21#8, .byte Instr.andIzx),
  (0x24#8, .byte Instr.bitZp),
  (0x25#8, .byte Instr.andZp),
  (0x26#8, .byte Instr.rolZp),
  (0x28#8, .imp Instr.plp),
  (0x29#8, .byte Instr.andImm),
  (0x2A#8, .imp Instr.rolAcc),
  (0x2C#8, .word Instr.bitAbs),
  (0x2D#8, .word Instr.andAbs),
  (0x2E#8, .word Instr.rolAbs)]

/-- Opcodes 0x30 to 0x3F (30 R106, R107). -/
def opcodeRow3 : List (Byte × Template) := [
  (0x30#8, .rel Instr.bmi),
  (0x31#8, .byte Instr.andIzy),
  (0x35#8, .byte Instr.andZpx),
  (0x36#8, .byte Instr.rolZpx),
  (0x38#8, .imp Instr.sec),
  (0x39#8, .word Instr.andAby),
  (0x3D#8, .word Instr.andAbx),
  (0x3E#8, .word Instr.rolAbx)]

/-- Opcodes 0x40 to 0x4F (30 R106, R107). -/
def opcodeRow4 : List (Byte × Template) := [
  (0x40#8, .imp Instr.rti),
  (0x41#8, .byte Instr.eorIzx),
  (0x45#8, .byte Instr.eorZp),
  (0x46#8, .byte Instr.lsrZp),
  (0x48#8, .imp Instr.pha),
  (0x49#8, .byte Instr.eorImm),
  (0x4A#8, .imp Instr.lsrAcc),
  (0x4C#8, .word Instr.jmpAbs),
  (0x4D#8, .word Instr.eorAbs),
  (0x4E#8, .word Instr.lsrAbs)]

/-- Opcodes 0x50 to 0x5F (30 R106, R107). -/
def opcodeRow5 : List (Byte × Template) := [
  (0x50#8, .rel Instr.bvc),
  (0x51#8, .byte Instr.eorIzy),
  (0x55#8, .byte Instr.eorZpx),
  (0x56#8, .byte Instr.lsrZpx),
  (0x58#8, .imp Instr.cli),
  (0x59#8, .word Instr.eorAby),
  (0x5D#8, .word Instr.eorAbx),
  (0x5E#8, .word Instr.lsrAbx)]

/-- Opcodes 0x60 to 0x6F (30 R106, R107). -/
def opcodeRow6 : List (Byte × Template) := [
  (0x60#8, .imp Instr.rts),
  (0x61#8, .byte Instr.adcIzx),
  (0x65#8, .byte Instr.adcZp),
  (0x66#8, .byte Instr.rorZp),
  (0x68#8, .imp Instr.pla),
  (0x69#8, .byte Instr.adcImm),
  (0x6A#8, .imp Instr.rorAcc),
  (0x6C#8, .word Instr.jmpInd),
  (0x6D#8, .word Instr.adcAbs),
  (0x6E#8, .word Instr.rorAbs)]

/-- Opcodes 0x70 to 0x7F (30 R106, R107). -/
def opcodeRow7 : List (Byte × Template) := [
  (0x70#8, .rel Instr.bvs),
  (0x71#8, .byte Instr.adcIzy),
  (0x75#8, .byte Instr.adcZpx),
  (0x76#8, .byte Instr.rorZpx),
  (0x78#8, .imp Instr.sei),
  (0x79#8, .word Instr.adcAby),
  (0x7D#8, .word Instr.adcAbx),
  (0x7E#8, .word Instr.rorAbx)]

/-- Opcodes 0x80 to 0x8F (30 R106, R107). -/
def opcodeRow8 : List (Byte × Template) := [
  (0x81#8, .byte Instr.staIzx),
  (0x84#8, .byte Instr.styZp),
  (0x85#8, .byte Instr.staZp),
  (0x86#8, .byte Instr.stxZp),
  (0x88#8, .imp Instr.dey),
  (0x8A#8, .imp Instr.txa),
  (0x8C#8, .word Instr.styAbs),
  (0x8D#8, .word Instr.staAbs),
  (0x8E#8, .word Instr.stxAbs)]

/-- Opcodes 0x90 to 0x9F (30 R106, R107). -/
def opcodeRow9 : List (Byte × Template) := [
  (0x90#8, .rel Instr.bcc),
  (0x91#8, .byte Instr.staIzy),
  (0x94#8, .byte Instr.styZpx),
  (0x95#8, .byte Instr.staZpx),
  (0x96#8, .byte Instr.stxZpy),
  (0x98#8, .imp Instr.tya),
  (0x99#8, .word Instr.staAby),
  (0x9A#8, .imp Instr.txs),
  (0x9D#8, .word Instr.staAbx)]

/-- Opcodes 0xA0 to 0xAF (30 R106, R107). -/
def opcodeRowA : List (Byte × Template) := [
  (0xA0#8, .byte Instr.ldyImm),
  (0xA1#8, .byte Instr.ldaIzx),
  (0xA2#8, .byte Instr.ldxImm),
  (0xA4#8, .byte Instr.ldyZp),
  (0xA5#8, .byte Instr.ldaZp),
  (0xA6#8, .byte Instr.ldxZp),
  (0xA8#8, .imp Instr.tay),
  (0xA9#8, .byte Instr.ldaImm),
  (0xAA#8, .imp Instr.tax),
  (0xAC#8, .word Instr.ldyAbs),
  (0xAD#8, .word Instr.ldaAbs),
  (0xAE#8, .word Instr.ldxAbs)]

/-- Opcodes 0xB0 to 0xBF (30 R106, R107). -/
def opcodeRowB : List (Byte × Template) := [
  (0xB0#8, .rel Instr.bcs),
  (0xB1#8, .byte Instr.ldaIzy),
  (0xB4#8, .byte Instr.ldyZpx),
  (0xB5#8, .byte Instr.ldaZpx),
  (0xB6#8, .byte Instr.ldxZpy),
  (0xB8#8, .imp Instr.clv),
  (0xB9#8, .word Instr.ldaAby),
  (0xBA#8, .imp Instr.tsx),
  (0xBC#8, .word Instr.ldyAbx),
  (0xBD#8, .word Instr.ldaAbx),
  (0xBE#8, .word Instr.ldxAby)]

/-- Opcodes 0xC0 to 0xCF (30 R106, R107). -/
def opcodeRowC : List (Byte × Template) := [
  (0xC0#8, .byte Instr.cpyImm),
  (0xC1#8, .byte Instr.cmpIzx),
  (0xC4#8, .byte Instr.cpyZp),
  (0xC5#8, .byte Instr.cmpZp),
  (0xC6#8, .byte Instr.decZp),
  (0xC8#8, .imp Instr.iny),
  (0xC9#8, .byte Instr.cmpImm),
  (0xCA#8, .imp Instr.dex),
  (0xCC#8, .word Instr.cpyAbs),
  (0xCD#8, .word Instr.cmpAbs),
  (0xCE#8, .word Instr.decAbs)]

/-- Opcodes 0xD0 to 0xDF (30 R106, R107). -/
def opcodeRowD : List (Byte × Template) := [
  (0xD0#8, .rel Instr.bne),
  (0xD1#8, .byte Instr.cmpIzy),
  (0xD5#8, .byte Instr.cmpZpx),
  (0xD6#8, .byte Instr.decZpx),
  (0xD8#8, .imp Instr.cld),
  (0xD9#8, .word Instr.cmpAby),
  (0xDD#8, .word Instr.cmpAbx),
  (0xDE#8, .word Instr.decAbx)]

/-- Opcodes 0xE0 to 0xEF (30 R106, R107). -/
def opcodeRowE : List (Byte × Template) := [
  (0xE0#8, .byte Instr.cpxImm),
  (0xE1#8, .byte Instr.sbcIzx),
  (0xE4#8, .byte Instr.cpxZp),
  (0xE5#8, .byte Instr.sbcZp),
  (0xE6#8, .byte Instr.incZp),
  (0xE8#8, .imp Instr.inx),
  (0xE9#8, .byte Instr.sbcImm),
  (0xEA#8, .imp Instr.nop),
  (0xEC#8, .word Instr.cpxAbs),
  (0xED#8, .word Instr.sbcAbs),
  (0xEE#8, .word Instr.incAbs)]

/-- Opcodes 0xF0 to 0xFF (30 R106, R107). -/
def opcodeRowF : List (Byte × Template) := [
  (0xF0#8, .rel Instr.beq),
  (0xF1#8, .byte Instr.sbcIzy),
  (0xF5#8, .byte Instr.sbcZpx),
  (0xF6#8, .byte Instr.incZpx),
  (0xF8#8, .imp Instr.sed),
  (0xF9#8, .word Instr.sbcAby),
  (0xFD#8, .word Instr.sbcAbx),
  (0xFE#8, .word Instr.incAbx)]

/-- The opcode table: each of the 151 defined opcode bytes with its template (30 R106). -/
def opcodeTable : List (Byte × Template) :=
  opcodeRow0 ++ opcodeRow1 ++ opcodeRow2 ++ opcodeRow3 ++
  opcodeRow4 ++ opcodeRow5 ++ opcodeRow6 ++ opcodeRow7 ++
  opcodeRow8 ++ opcodeRow9 ++ opcodeRowA ++ opcodeRowB ++
  opcodeRowC ++ opcodeRowD ++ opcodeRowE ++ opcodeRowF

/-- The template of an opcode byte, none for the 105 bytes with no row (30 R102, R109). -/
def templateOf (op : Byte) : Option Template := opcodeTable.lookup op

/-- The instruction at the front of a list of bytes, with the bytes after it; none where the opcode has
no row or operand bytes are missing (30 R100 to R105). -/
def decode : List Byte → Option (Instr × List Byte)
  | [] => none
  | op :: rest =>
    match templateOf op with
    | none => none
    | some (.imp i) => some (i, rest)
    | some (.byte f) =>
      match rest with
      | b :: rest' => some (f b, rest')
      | [] => none
    | some (.rel f) =>
      match rest with
      | b :: rest' => some (f b.toInt, rest')
      | [] => none
    | some (.word f) =>
      match rest with
      | lo :: hi :: rest' => some (f (mkWord lo hi), rest')
      | _ => none

/-- The first bytes of a number's little-endian bytes: bit 0 of `w` is bit 0 of the first byte. -/
def bytesOfNat : Nat → Nat → List Byte
  | 0, _ => []
  | n + 1, w => BitVec.ofNat 8 w :: bytesOfNat n (w / 256)

/-- The bytes of an instruction numbered as the opcode table numbers its bits: the low `nbits` bits of
`w`, then zeros up to the longest instruction's three bytes. -/
def tableBytes (nbits w : Nat) : List Byte := bytesOfNat 3 (w % 2 ^ nbits)

/-- The instruction the decoder reads from a table word. -/
def decodeTableWord (nbits w : Nat) : Option Instr := (decode (tableBytes nbits w)).map (·.1)

/-- What a row's cycle count adds to its base: nothing, the resolver's page-cross cycle (read-class
entries, 40 R135), or the branch cycles the handler returns (44 R230). -/
inductive Extra where
  | none | page | branch
  deriving DecidableEq, Repr

/-- A dispatch-table entry (30 R106, 40 R133). -/
structure Entry where
  opcode : Byte
  mnemonic : Mnemonic
  mode : Mode
  base : Nat
  extra : Extra
  deriving DecidableEq, Repr

/-- The dispatch-table entry of each instruction (30 R106). -/
def Instr.entry : Instr → Entry
  | .ldaImm _ => ⟨0xA9, .lda, .imm, 2, .none⟩
  | .ldaZp _ => ⟨0xA5, .lda, .zp, 3, .none⟩
  | .ldaZpx _ => ⟨0xB5, .lda, .zpx, 4, .none⟩
  | .ldaAbs _ => ⟨0xAD, .lda, .abs, 4, .none⟩
  | .ldaAbx _ => ⟨0xBD, .lda, .abx, 4, .page⟩
  | .ldaAby _ => ⟨0xB9, .lda, .aby, 4, .page⟩
  | .ldaIzx _ => ⟨0xA1, .lda, .izx, 6, .none⟩
  | .ldaIzy _ => ⟨0xB1, .lda, .izy, 5, .page⟩
  | .ldxImm _ => ⟨0xA2, .ldx, .imm, 2, .none⟩
  | .ldxZp _ => ⟨0xA6, .ldx, .zp, 3, .none⟩
  | .ldxZpy _ => ⟨0xB6, .ldx, .zpy, 4, .none⟩
  | .ldxAbs _ => ⟨0xAE, .ldx, .abs, 4, .none⟩
  | .ldxAby _ => ⟨0xBE, .ldx, .aby, 4, .page⟩
  | .ldyImm _ => ⟨0xA0, .ldy, .imm, 2, .none⟩
  | .ldyZp _ => ⟨0xA4, .ldy, .zp, 3, .none⟩
  | .ldyZpx _ => ⟨0xB4, .ldy, .zpx, 4, .none⟩
  | .ldyAbs _ => ⟨0xAC, .ldy, .abs, 4, .none⟩
  | .ldyAbx _ => ⟨0xBC, .ldy, .abx, 4, .page⟩
  | .staZp _ => ⟨0x85, .sta, .zp, 3, .none⟩
  | .staZpx _ => ⟨0x95, .sta, .zpx, 4, .none⟩
  | .staAbs _ => ⟨0x8D, .sta, .abs, 4, .none⟩
  | .staAbx _ => ⟨0x9D, .sta, .abx, 5, .none⟩
  | .staAby _ => ⟨0x99, .sta, .aby, 5, .none⟩
  | .staIzx _ => ⟨0x81, .sta, .izx, 6, .none⟩
  | .staIzy _ => ⟨0x91, .sta, .izy, 6, .none⟩
  | .stxZp _ => ⟨0x86, .stx, .zp, 3, .none⟩
  | .stxZpy _ => ⟨0x96, .stx, .zpy, 4, .none⟩
  | .stxAbs _ => ⟨0x8E, .stx, .abs, 4, .none⟩
  | .styZp _ => ⟨0x84, .sty, .zp, 3, .none⟩
  | .styZpx _ => ⟨0x94, .sty, .zpx, 4, .none⟩
  | .styAbs _ => ⟨0x8C, .sty, .abs, 4, .none⟩
  | .tax => ⟨0xAA, .tax, .imp, 2, .none⟩
  | .tay => ⟨0xA8, .tay, .imp, 2, .none⟩
  | .txa => ⟨0x8A, .txa, .imp, 2, .none⟩
  | .tya => ⟨0x98, .tya, .imp, 2, .none⟩
  | .tsx => ⟨0xBA, .tsx, .imp, 2, .none⟩
  | .txs => ⟨0x9A, .txs, .imp, 2, .none⟩
  | .adcImm _ => ⟨0x69, .adc, .imm, 2, .none⟩
  | .adcZp _ => ⟨0x65, .adc, .zp, 3, .none⟩
  | .adcZpx _ => ⟨0x75, .adc, .zpx, 4, .none⟩
  | .adcAbs _ => ⟨0x6D, .adc, .abs, 4, .none⟩
  | .adcAbx _ => ⟨0x7D, .adc, .abx, 4, .page⟩
  | .adcAby _ => ⟨0x79, .adc, .aby, 4, .page⟩
  | .adcIzx _ => ⟨0x61, .adc, .izx, 6, .none⟩
  | .adcIzy _ => ⟨0x71, .adc, .izy, 5, .page⟩
  | .sbcImm _ => ⟨0xE9, .sbc, .imm, 2, .none⟩
  | .sbcZp _ => ⟨0xE5, .sbc, .zp, 3, .none⟩
  | .sbcZpx _ => ⟨0xF5, .sbc, .zpx, 4, .none⟩
  | .sbcAbs _ => ⟨0xED, .sbc, .abs, 4, .none⟩
  | .sbcAbx _ => ⟨0xFD, .sbc, .abx, 4, .page⟩
  | .sbcAby _ => ⟨0xF9, .sbc, .aby, 4, .page⟩
  | .sbcIzx _ => ⟨0xE1, .sbc, .izx, 6, .none⟩
  | .sbcIzy _ => ⟨0xF1, .sbc, .izy, 5, .page⟩
  | .andImm _ => ⟨0x29, .and, .imm, 2, .none⟩
  | .andZp _ => ⟨0x25, .and, .zp, 3, .none⟩
  | .andZpx _ => ⟨0x35, .and, .zpx, 4, .none⟩
  | .andAbs _ => ⟨0x2D, .and, .abs, 4, .none⟩
  | .andAbx _ => ⟨0x3D, .and, .abx, 4, .page⟩
  | .andAby _ => ⟨0x39, .and, .aby, 4, .page⟩
  | .andIzx _ => ⟨0x21, .and, .izx, 6, .none⟩
  | .andIzy _ => ⟨0x31, .and, .izy, 5, .page⟩
  | .oraImm _ => ⟨0x09, .ora, .imm, 2, .none⟩
  | .oraZp _ => ⟨0x05, .ora, .zp, 3, .none⟩
  | .oraZpx _ => ⟨0x15, .ora, .zpx, 4, .none⟩
  | .oraAbs _ => ⟨0x0D, .ora, .abs, 4, .none⟩
  | .oraAbx _ => ⟨0x1D, .ora, .abx, 4, .page⟩
  | .oraAby _ => ⟨0x19, .ora, .aby, 4, .page⟩
  | .oraIzx _ => ⟨0x01, .ora, .izx, 6, .none⟩
  | .oraIzy _ => ⟨0x11, .ora, .izy, 5, .page⟩
  | .eorImm _ => ⟨0x49, .eor, .imm, 2, .none⟩
  | .eorZp _ => ⟨0x45, .eor, .zp, 3, .none⟩
  | .eorZpx _ => ⟨0x55, .eor, .zpx, 4, .none⟩
  | .eorAbs _ => ⟨0x4D, .eor, .abs, 4, .none⟩
  | .eorAbx _ => ⟨0x5D, .eor, .abx, 4, .page⟩
  | .eorAby _ => ⟨0x59, .eor, .aby, 4, .page⟩
  | .eorIzx _ => ⟨0x41, .eor, .izx, 6, .none⟩
  | .eorIzy _ => ⟨0x51, .eor, .izy, 5, .page⟩
  | .cmpImm _ => ⟨0xC9, .cmp, .imm, 2, .none⟩
  | .cmpZp _ => ⟨0xC5, .cmp, .zp, 3, .none⟩
  | .cmpZpx _ => ⟨0xD5, .cmp, .zpx, 4, .none⟩
  | .cmpAbs _ => ⟨0xCD, .cmp, .abs, 4, .none⟩
  | .cmpAbx _ => ⟨0xDD, .cmp, .abx, 4, .page⟩
  | .cmpAby _ => ⟨0xD9, .cmp, .aby, 4, .page⟩
  | .cmpIzx _ => ⟨0xC1, .cmp, .izx, 6, .none⟩
  | .cmpIzy _ => ⟨0xD1, .cmp, .izy, 5, .page⟩
  | .cpxImm _ => ⟨0xE0, .cpx, .imm, 2, .none⟩
  | .cpxZp _ => ⟨0xE4, .cpx, .zp, 3, .none⟩
  | .cpxAbs _ => ⟨0xEC, .cpx, .abs, 4, .none⟩
  | .cpyImm _ => ⟨0xC0, .cpy, .imm, 2, .none⟩
  | .cpyZp _ => ⟨0xC4, .cpy, .zp, 3, .none⟩
  | .cpyAbs _ => ⟨0xCC, .cpy, .abs, 4, .none⟩
  | .bitZp _ => ⟨0x24, .bit, .zp, 3, .none⟩
  | .bitAbs _ => ⟨0x2C, .bit, .abs, 4, .none⟩
  | .aslAcc => ⟨0x0A, .asl, .acc, 2, .none⟩
  | .aslZp _ => ⟨0x06, .asl, .zp, 5, .none⟩
  | .aslZpx _ => ⟨0x16, .asl, .zpx, 6, .none⟩
  | .aslAbs _ => ⟨0x0E, .asl, .abs, 6, .none⟩
  | .aslAbx _ => ⟨0x1E, .asl, .abx, 7, .none⟩
  | .lsrAcc => ⟨0x4A, .lsr, .acc, 2, .none⟩
  | .lsrZp _ => ⟨0x46, .lsr, .zp, 5, .none⟩
  | .lsrZpx _ => ⟨0x56, .lsr, .zpx, 6, .none⟩
  | .lsrAbs _ => ⟨0x4E, .lsr, .abs, 6, .none⟩
  | .lsrAbx _ => ⟨0x5E, .lsr, .abx, 7, .none⟩
  | .rolAcc => ⟨0x2A, .rol, .acc, 2, .none⟩
  | .rolZp _ => ⟨0x26, .rol, .zp, 5, .none⟩
  | .rolZpx _ => ⟨0x36, .rol, .zpx, 6, .none⟩
  | .rolAbs _ => ⟨0x2E, .rol, .abs, 6, .none⟩
  | .rolAbx _ => ⟨0x3E, .rol, .abx, 7, .none⟩
  | .rorAcc => ⟨0x6A, .ror, .acc, 2, .none⟩
  | .rorZp _ => ⟨0x66, .ror, .zp, 5, .none⟩
  | .rorZpx _ => ⟨0x76, .ror, .zpx, 6, .none⟩
  | .rorAbs _ => ⟨0x6E, .ror, .abs, 6, .none⟩
  | .rorAbx _ => ⟨0x7E, .ror, .abx, 7, .none⟩
  | .incZp _ => ⟨0xE6, .inc, .zp, 5, .none⟩
  | .incZpx _ => ⟨0xF6, .inc, .zpx, 6, .none⟩
  | .incAbs _ => ⟨0xEE, .inc, .abs, 6, .none⟩
  | .incAbx _ => ⟨0xFE, .inc, .abx, 7, .none⟩
  | .decZp _ => ⟨0xC6, .dec, .zp, 5, .none⟩
  | .decZpx _ => ⟨0xD6, .dec, .zpx, 6, .none⟩
  | .decAbs _ => ⟨0xCE, .dec, .abs, 6, .none⟩
  | .decAbx _ => ⟨0xDE, .dec, .abx, 7, .none⟩
  | .inx => ⟨0xE8, .inx, .imp, 2, .none⟩
  | .iny => ⟨0xC8, .iny, .imp, 2, .none⟩
  | .dex => ⟨0xCA, .dex, .imp, 2, .none⟩
  | .dey => ⟨0x88, .dey, .imp, 2, .none⟩
  | .bcc _ => ⟨0x90, .bcc, .rel, 2, .branch⟩
  | .bcs _ => ⟨0xB0, .bcs, .rel, 2, .branch⟩
  | .beq _ => ⟨0xF0, .beq, .rel, 2, .branch⟩
  | .bne _ => ⟨0xD0, .bne, .rel, 2, .branch⟩
  | .bmi _ => ⟨0x30, .bmi, .rel, 2, .branch⟩
  | .bpl _ => ⟨0x10, .bpl, .rel, 2, .branch⟩
  | .bvc _ => ⟨0x50, .bvc, .rel, 2, .branch⟩
  | .bvs _ => ⟨0x70, .bvs, .rel, 2, .branch⟩
  | .jmpAbs _ => ⟨0x4C, .jmp, .abs, 3, .none⟩
  | .jmpInd _ => ⟨0x6C, .jmp, .ind, 5, .none⟩
  | .jsr _ => ⟨0x20, .jsr, .abs, 6, .none⟩
  | .rts => ⟨0x60, .rts, .imp, 6, .none⟩
  | .pha => ⟨0x48, .pha, .imp, 3, .none⟩
  | .php => ⟨0x08, .php, .imp, 3, .none⟩
  | .pla => ⟨0x68, .pla, .imp, 4, .none⟩
  | .plp => ⟨0x28, .plp, .imp, 4, .none⟩
  | .clc => ⟨0x18, .clc, .imp, 2, .none⟩
  | .sec => ⟨0x38, .sec, .imp, 2, .none⟩
  | .cli => ⟨0x58, .cli, .imp, 2, .none⟩
  | .sei => ⟨0x78, .sei, .imp, 2, .none⟩
  | .cld => ⟨0xD8, .cld, .imp, 2, .none⟩
  | .sed => ⟨0xF8, .sed, .imp, 2, .none⟩
  | .clv => ⟨0xB8, .clv, .imp, 2, .none⟩
  | .nop => ⟨0xEA, .nop, .imp, 2, .none⟩
  | .brk => ⟨0x00, .brk, .imp, 7, .none⟩
  | .rti => ⟨0x40, .rti, .imp, 6, .none⟩

/-- The operand bytes in memory order, little-endian (30 R101, R105). -/
def Operand.bytes : Operand → List Byte
  | .none => []
  | .byte b => [b]
  | .word w => [loByte w, hiByte w]
  | .rel d => [BitVec.ofInt 8 d]

/-- The bytes of an instruction: its opcode byte and its operand bytes (30 R100, R101). -/
def encode (i : Instr) : List Byte := i.entry.opcode :: i.operand.bytes

/-- The length of an instruction in bytes (30 R100). -/
def Instr.length (i : Instr) : Nat := (encode i).length

/-- The length the addressing mode's format gives (30 R101, R104). -/
def Mode.length : Mode → Nat
  | .imp => 1
  | .acc => 1
  | .imm => 2
  | .zp => 2
  | .zpx => 2
  | .zpy => 2
  | .rel => 2
  | .abs => 3
  | .abx => 3
  | .aby => 3
  | .ind => 3
  | .izx => 2
  | .izy => 2

end Sys2Proof
end

