-- ==== Sys2Proof/Machine/State.lean ====
section
/-! DEFINITION. Sys2Proof/Machine/State.lean: the machine's state as plain data (spec 10), the reasons it
stops, and the state after power-on. -/

namespace Sys2Proof.Machine

/-- The two buses a faulting access can be on (00 R6). -/
inductive Bus where
  | cpu
  | ppu
  deriving DecidableEq, Repr

/-- The three fatal faults (60 R401 to R404), each with its datum. In `exec` a fault is the stop at the
point of detection; `step` latches it (log 7). -/
inductive Fault where
  /-- Raised by the opcode fetch of a byte with no dispatch-table entry (60 R402). Safe: the machine
  stops where the spec says it stops. -/
  | unknownOpcode (op : Byte)
  /-- Raised by an access to an address with no mapped region (60 R403). Safe: the machine stops where
  the spec says it stops. -/
  | invalidBusAddress (bus : Bus) (addr : Word)
  /-- Raised by a write to read-only memory (60 R404). Safe: the machine stops where the spec says it
  stops. -/
  | readOnlyViolation (bus : Bus) (addr : Word)
  deriving DecidableEq, Repr

/-- The reasons the model has no meaning for a step. -/
inductive Refusal where
  /-- An arm of `exec` that has no meaning; none is left. Safe: the machine stops. -/
  | notModelled (mnemonic : String)
  /-- Raised by the opcode fetch of a member of `EXTRA_OPCODES` outside the table, to which the spec
  gives no semantics (30 R110, log 11). Safe: the machine stops; the default set is empty. -/
  | extraOpcode (op : Byte)
  deriving DecidableEq, Repr

/-- The seven flags, "seven independent" one-bit fields (10 R25). -/
structure Flags where
  /-- carry -/
  c : Bool
  /-- zero -/
  z : Bool
  /-- interrupt-disable -/
  i : Bool
  /-- decimal, unused but tracked (10 R27) -/
  d : Bool
  /-- break (10 R28) -/
  b : Bool
  /-- overflow -/
  v : Bool
  /-- negative -/
  n : Bool
  deriving DecidableEq, Repr

/-- One event of the pixel sink (49 R378). -/
structure Pixel where
  x : Byte
  y : Byte
  colour : Byte
  deriving DecidableEq, Repr

/-- A machine state of the conformance harness (60 R437): registers, packed flags, memory pairs. -/
structure Harness where
  pc : Word
  s : Byte
  a : Byte
  x : Byte
  y : Byte
  p : Byte
  ram : List (Word × Byte)
  deriving DecidableEq, Repr

/-- The host's calls (00 R13, 60 R436). -/
inductive HostCmd where
  /-- `SystemTick` (60 R420), so that strobes and ticks can come in any order (00 R13) -/
  | systemTick
  /-- `CPU.PowerUp` (70 R440) -/
  | powerUp
  /-- `CPU.Reset` (70 R442) -/
  | warmReset
  /-- `PPU.Reset` (70 R445) -/
  | ppuReset
  /-- the `nmi` strobe of the CPU port (60 R411) -/
  | nmiStrobe
  /-- the `irq` level (60 R412) -/
  | setIrq (level : Bool)
  /-- `ackFrame` (47 R308) -/
  | ackFrame
  /-- `CPU.Clock` alone, as the harness calls it (60 R426) -/
  | cpuClock
  /-- the harness load (60 R437) -/
  | load (h : Harness)
  deriving DecidableEq, Repr

/-- Everything the spec gives the machine (10), its configuration (00 R7), the output and input ports that
behave as state, and the model's own `epoch`, `draws` and `host`. -/
structure State where
  /-- accumulator (10 R20) -/
  a : Byte
  /-- index X (10 R20) -/
  x : Byte
  /-- index Y (10 R20) -/
  y : Byte
  /-- stack pointer `S` (10 R21) -/
  sp : Byte
  /-- program counter (10 R22) -/
  pc : Word
  /-- the seven flags (10 R25) -/
  p : Flags
  /-- execution context: current opcode (10 R33) -/
  opcode : Byte
  /-- execution context: resolved operand address (10 R33) -/
  ea : Word
  /-- execution context: resolved operand value (10 R33) -/
  opv : Word
  /-- remaining-cycle counter (10 R34) -/
  rem : Nat
  /-- CPU fault latch (10 R36) -/
  cpuFault : Option Fault
  /-- PPU cycle in the scanline (10 R40) -/
  cycle : Nat
  /-- PPU scanline (10 R40) -/
  scanline : Int
  /-- frame-complete flag (10 R41) -/
  frameComplete : Bool
  /-- NMI request flag (10 R41) -/
  nmi : Bool
  /-- register 0 (10 R42) -/
  ppuctrl : Byte
  /-- register 1 (10 R43) -/
  ppumask : Byte
  /-- vertical-blank status, bit 7 of register 2 (10 R44) -/
  vblank : Bool
  /-- register 3, the OAM address (10 R45) -/
  oamAddr : Byte
  /-- VRAM address (10 R46) -/
  v : PpuAddr
  /-- write-toggle latch: false when the next write is the first (10 R46) -/
  w : Bool
  /-- read buffer (10 R46) -/
  rdbuf : Byte
  /-- first scroll byte (10 R47) -/
  scrollX : Byte
  /-- second scroll byte (10 R47) -/
  scrollY : Byte
  /-- PPU fault latch (10 R50) -/
  ppuFault : Option Fault
  /-- name-table RAM (10 R48) -/
  nt : Memory
  /-- palette RAM, 28 cells in the indexes 0 to 31 (10 R48) -/
  pal : Memory
  /-- object-attribute memory (10 R48) -/
  oam : Memory
  /-- cartridge graphics memory (10 R49, 20 R85) -/
  chr : Memory
  /-- CPU RAM: 65536 bytes under `FLAT64K` (20 R67), 2048 under `NES_NROM` (20 R69) -/
  ram : Memory
  /-- cartridge RAM (10 R49, 20 R72) -/
  prgRam : Memory
  /-- cartridge program ROM (10 R49, 20 R72; log 12) -/
  prgRom : Memory
  /-- the `irq` level input (10 R52) -/
  irq : Bool
  /-- the pixel sink's events, newest first (49 R378, log 10) -/
  sink : List Pixel
  /-- the parameters of 00 R7 (log 2) -/
  config : Config
  /-- the model's own: how many operations a fault has ended, so that the draws after one are new (00 R10,
  log 6) -/
  epoch : Nat
  /-- the model's own: how many free values have been drawn (00 R10, log 6) -/
  draws : Nat
  /-- the model's own: the host's pending calls, oldest first (00 R13, 60 R436, log 1) -/
  host : List HostCmd
  deriving DecidableEq, Repr

/-- The flags after power-up, packed 0x24: only `I` set (10 R38, 70 R440). -/
def Flags.reset : Flags := ⟨false, false, true, false, false, false, false⟩

/-- The state after system power-on (70 R446): `PPU.Reset` (10 R51), `CPU.PowerUp` (10 R38), memories with
nothing listed (DESIGN CHOICE, log 3), hence the reset vector 0x0000 (log 4), the default configuration
(log 2), no call of the host pending, nothing drawn, nothing emitted. -/
def State.reset : State where
  a := 0x00#8
  x := 0x00#8
  y := 0x00#8
  sp := 0xFD#8
  pc := 0x0000#16
  p := Flags.reset
  opcode := 0x00#8
  ea := 0x0000#16
  opv := 0x0000#16
  rem := 0
  cpuFault := none
  cycle := 0
  scanline := -1
  frameComplete := false
  nmi := false
  ppuctrl := 0x00#8
  ppumask := 0x00#8
  vblank := false
  oamAddr := 0x00#8
  v := 0x0000#14
  w := false
  rdbuf := 0x00#8
  scrollX := 0x00#8
  scrollY := 0x00#8
  ppuFault := none
  nt := []
  pal := []
  oam := []
  chr := []
  ram := []
  prgRam := []
  prgRom := []
  irq := false
  sink := []
  config := Config.default
  epoch := 0
  draws := 0
  host := []

end Sys2Proof.Machine
end

