-- ==== Sys2Proof/Machine/Flags.lean ====
section
/-! DEFINITION. Sys2Proof/Machine/Flags.lean: packing and unpacking the flags, and every flag computation
and arithmetic result of the instructions (spec 10 R25 to R32, 42, 43). -/

namespace Sys2Proof.Machine

/-- `Pack()`: N V 1 B D I Z C from bit 7 down (10 R29, R31). -/
def Flags.pack (p : Flags) : Byte :=
  BitVec.ofNat 8 (p.n.toNat * 128 + p.v.toNat * 64 + 32 + p.b.toNat * 16 + p.d.toNat * 8 + p.i.toNat * 4
    + p.z.toNat * 2 + p.c.toNat)

/-- `Unpack(b)`: bit 5 is ignored (10 R32). -/
def Flags.unpack (b : Byte) : Flags where
  c := b.getLsbD 0
  z := b.getLsbD 1
  i := b.getLsbD 2
  d := b.getLsbD 3
  b := b.getLsbD 4
  v := b.getLsbD 6
  n := b.getLsbD 7

/-- `SetZN(v)` (00 R10). -/
def Flags.setZN (r : Byte) (p : Flags) : Flags := { p with z := r == 0x00#8, n := r.getLsbD 7 }

/-- The exact sum `A + M + P.C`, 0 to 0x1FF (42 R190). -/
def adcSum (a m : Byte) (c : Bool) : Nat := a.toNat + m.toNat + c.toNat

/-- The sum's low eight bits, the new `A` of ADC (42 R190, R199). -/
def adcResult (a m : Byte) (c : Bool) : Byte := BitVec.ofNat 8 (adcSum a m c)

/-- The carry out of the sum (42 R190). -/
def adcCarry (a m : Byte) (c : Bool) : Bool := decide (0xFF < adcSum a m c)

/-- Signed overflow: `A` and `M` have the same sign and the result another (42 R190). -/
def adcOverflow (a m : Byte) (c : Bool) : Bool :=
  (~~~(a ^^^ m) &&& (a ^^^ adcResult a m c) &&& 0x80#8) != 0x00#8

/-- The flags after the addition of ADC (42 R190). -/
def Flags.adc (a m : Byte) (p : Flags) : Flags :=
  { p with c := adcCarry a m p.c, v := adcOverflow a m p.c }.setZN (adcResult a m p.c)

/-- The flags after a compare of register `r` with `m` (42 R195). -/
def Flags.compare (r m : Byte) (p : Flags) : Flags :=
  { p with c := decide (m.toNat ≤ r.toNat) }.setZN (r - m)

/-- The flags after BIT: `Z` from the and, `N` and `V` from the memory byte (42 R198). -/
def Flags.bitTest (a m : Byte) (p : Flags) : Flags :=
  { p with z := (a &&& m) == 0x00#8, n := m.getLsbD 7, v := m.getLsbD 6 }

/-- The flags after a shift or rotate: `C` the bit shifted out, `Z` and `N` from the result (43 R210 to
R213). -/
def Flags.shift (carry : Bool) (r : Byte) (p : Flags) : Flags := { p with c := carry }.setZN r

/-- ASL's result (43 R210). -/
def aslByte (m : Byte) : Byte := m <<< 1

/-- LSR's result (43 R211). -/
def lsrByte (m : Byte) : Byte := m >>> 1

/-- ROL's result: the prior carry enters bit 0 (43 R212). -/
def rolByte (c : Bool) (m : Byte) : Byte := (m <<< 1) ||| (BitVec.ofBool c).setWidth 8

/-- ROR's result: the prior carry enters bit 7 (43 R213). -/
def rorByte (c : Bool) (m : Byte) : Byte := (m >>> 1) ||| ((BitVec.ofBool c).setWidth 8 <<< 7)

end Sys2Proof.Machine
end

