-- ==== Sys2Proof/Machine/Memory.lean ====
section
/-! DEFINITION. Sys2Proof/Machine/Memory.lean: byte memories in canonical form (addresses strictly rising, no
entry equal to what an unlisted address reads as), the results of operations, and the free values. -/

namespace Sys2Proof

/-- What an unlisted address of any memory reads as. DESIGN CHOICE (log 3): the spec leaves the launch
contents open (93 U10), and every other launch image is a list of its own. -/
def Memory.unlisted : Byte := 0x00#8

/-- The byte at an index. -/
def Memory.read : Memory → Nat → Byte
  | [], _ => Memory.unlisted
  | (j, b) :: m, k => if j = k then b else Memory.read m k

/-- The memory with the byte at an index replaced, in canonical form: writing what an unlisted address
reads as removes the entry. -/
def Memory.write : Memory → Nat → Byte → Memory
  | [], k, b => if b = Memory.unlisted then [] else [(k, b)]
  | (j, c) :: m, k, b =>
    if k < j then (if b = Memory.unlisted then (j, c) :: m else (k, b) :: (j, c) :: m)
    else if k = j then (if b = Memory.unlisted then m else (k, b) :: m)
    else (j, c) :: Memory.write m k b

/-- The canonical form of a memory of the given size. -/
abbrev Memory.wf (size : Nat) (m : Memory) : Prop :=
  m.Pairwise (fun c d => c.1 < d.1) ∧ ∀ c ∈ m, c.1 < size ∧ c.2 ≠ Memory.unlisted

end Sys2Proof

namespace Sys2Proof.Machine

/-- The result of an operation: a value, a fault or a refusal. -/
abbrev Res (α : Type) := Host.Outcome α Fault Refusal

/-- One operation after another: the first stop ends the operation in progress (40 R138, 60 R406). -/
def andThen {α β : Type} (r : Res α) (f : α → Res β) : Res β :=
  match r with
  | .next a => f a
  | .fault e => .fault e
  | .refused e => .refused e

/-- The byte the next draw gives, a free value (00 R10, log 6). -/
def drawByte (s : State) : Byte := Config.freeByte s.epoch s.draws

/-- The state after a draw: only the model's own counter moves (log 6). -/
def countDraw (s : State) : State := { s with draws := s.draws + 1 }

end Sys2Proof.Machine
end

