-- ==== Sys2Proof/Machine/PpuBus.lean ====
section
/-! DEFINITION. Sys2Proof/Machine/PpuBus.lean: the PPU's own 14-bit bus (spec 48 R340 to R348) and the eight
registers the CPU sees (48 R320 to R335). -/

namespace Sys2Proof.Machine

/-- A cell of the PPU bus. -/
inductive PpuPlace where
  | chr (i : Nat)
  | nt (i : Nat)
  | pal (i : Nat)
  deriving DecidableEq, Repr

/-- `PalIndex(addr)`: the entries 0x10, 0x14, 0x18, 0x1C are the cells 0x00, 0x04, 0x08, 0x0C (48 R345). -/
def palIndex (addr : PpuAddr) : Nat :=
  let i := addr.toNat % 32
  if i = 0x10 ∨ i = 0x14 ∨ i = 0x18 ∨ i = 0x1C then i - 0x10 else i

/-- The routing of the PPU bus, by range (48 R340, R342 to R345). -/
def ppuRoute (c : Config) (addr : PpuAddr) : PpuPlace :=
  if addr.toNat ≤ 0x1FFF then .chr addr.toNat
  else if addr.toNat ≤ 0x2FFF then .nt ((addr.toNat - 0x2000) % c.ntSize)
  else if addr.toNat ≤ 0x3EFF then .nt ((addr.toNat - 0x3000) % c.ntSize)
  else .pal (palIndex addr)

/-- The byte at a PPU bus address below 0x4000, with no side effect (48 R340). -/
def ppuByte (addr : PpuAddr) (s : State) : Byte :=
  match ppuRoute s.config addr with
  | .chr i => s.chr.read i
  | .nt i => s.nt.read i
  | .pal i => s.pal.read i

/-- `PpuRead(addr)`: an address that matches no range raises `InvalidBusAddress` (48 R340, R346). -/
def ppuRead (addr : Word) (s : State) : Res Byte :=
  if addr.toNat ≤ 0x3FFF then .next (ppuByte (addr.setWidth 14) s)
  else .fault (.invalidBusAddress .ppu addr)

/-- `PpuWrite(addr, value)` (48 R341): pattern memory accepts a write only when `CHR_WRITABLE` (20 R85). -/
def ppuWrite (addr : Word) (value : Byte) (s : State) : Res State :=
  if addr.toNat ≤ 0x3FFF then
    match ppuRoute s.config (addr.setWidth 14) with
    | .chr i =>
      if s.config.chrWritable then .next { s with chr := s.chr.write i value }
      else .fault (.readOnlyViolation .ppu addr)
    | .nt i => .next { s with nt := s.nt.write i value }
    | .pal i => .next { s with pal := s.pal.write i value }
  else .fault (.invalidBusAddress .ppu addr)

/-- `Inc()`: 32 when `PPUCTRL[2]` is 1, else 1 (48 R331, R333). -/
def ppuInc (s : State) : PpuAddr := if s.ppuctrl.getLsbD 2 then 32#14 else 1#14

/-- Read of `PPUSTATUS`: `vblank` over seven free bits; clears `vblank` and `w` (48 R324). -/
def readStatus (s : State) : Res (Byte × State) :=
  .next ((if s.vblank then 0x80#8 else 0x00#8) ||| (drawByte s &&& 0x7F#8),
    { countDraw s with vblank := false, w := false })

/-- Read of `OAMDATA`: no increment (48 R327). -/
def readOamData (s : State) : Res (Byte × State) := .next (s.oam.read s.oamAddr.toNat, s)

/-- Read of `PPUDATA`: immediate from the palette, delayed by the buffer elsewhere; then `v` advances
(48 R332). DEDUCED (log 20): a second read whose `v` has advanced into the palette is immediate too, by R332's
pseudocode, where the two-read sequence of R348 would give the byte before. -/
def readPpuData (s : State) : Res (Byte × State) :=
  andThen (ppuRead (s.v.setWidth 16) s) fun d =>
    .next (if 0x3F00 ≤ s.v.toNat then d else s.rdbuf, { s with rdbuf := d, v := s.v + ppuInc s })

/-- `PPU.ReadReg(i)` (48 R320, R324, R327, R332); the write-only registers give a free value and change
nothing (48 R334). With a latched PPU fault the read does nothing, and its value, which the spec does not state,
is free (log 13). -/
def ppuReadReg (i : BitVec 3) (s : State) : Res (Byte × State) :=
  match s.ppuFault with
  | some _ => .next (drawByte s, countDraw s)
  | none =>
    match i.toNat with
    | 2 => readStatus s
    | 4 => readOamData s
    | 7 => readPpuData s
    | _ => .next (drawByte s, countDraw s)

/-- Write of `OAMDATA`: stores and increments `oam_addr` modulo 256 (48 R326). -/
def writeOamData (value : Byte) (s : State) : State :=
  { s with oam := s.oam.write s.oamAddr.toNat value, oamAddr := s.oamAddr + 1#8 }

/-- Write of `PPUSCROLL`: first `scroll_x`, second `scroll_y`, flips `w` (48 R329). -/
def writeScroll (value : Byte) (s : State) : State :=
  if s.w then { s with scrollY := value, w := false } else { s with scrollX := value, w := true }

/-- Write of `PPUADDR`: first the high six bits of `v`, second the low eight, flips `w` (48 R330). -/
def writePpuAddr (value : Byte) (s : State) : State :=
  if s.w then { s with v := (s.v &&& 0x3F00#14) ||| value.setWidth 14, w := false }
  else { s with v := ((value &&& 0x3F#8).setWidth 14 <<< 8) ||| (s.v &&& 0x00FF#14), w := true }

/-- Write of `PPUDATA`: the bus write, then `v` advances (48 R331). -/
def writePpuData (value : Byte) (s : State) : Res State :=
  andThen (ppuWrite (s.v.setWidth 16) value s) fun t => .next { t with v := t.v + ppuInc t }

/-- `PPU.WriteReg(i, value)` (48 R320 to R331); does nothing with a latched PPU fault. -/
def ppuWriteReg (i : BitVec 3) (value : Byte) (s : State) : Res State :=
  match s.ppuFault with
  | some _ => .next s
  | none =>
    match i.toNat with
    | 0 => .next { s with ppuctrl := value }
    | 1 => .next { s with ppumask := value }
    | 3 => .next { s with oamAddr := value }
    | 4 => .next (writeOamData value s)
    | 5 => .next (writeScroll value s)
    | 6 => .next (writePpuAddr value s)
    | 7 => writePpuData value s
    | _ => .next s

end Sys2Proof.Machine
end

