-- ==== Sys2Proof/Machine/PpuPixel.lean ====
section
/-! DEFINITION. Sys2Proof/Machine/PpuPixel.lean: the background pixel, the sprite pixel and their
composition (spec 49). All reads are internal and change no state (49 R361). -/

namespace Sys2Proof.Machine

/-- The byte at a PPU bus address given as a number below 0x4000. -/
def ppuAt (addr : Nat) (s : State) : Byte := ppuByte (BitVec.ofNat 14 addr) s

/-- The 2-bit colour index of a bit position in two bit planes: plane 1 is the high bit (49 R365). -/
def planeIndex (lo hi : Byte) (bit : Nat) : Nat := (hi.getLsbD bit).toNat * 2 + (lo.getLsbD bit).toNat

/-- The colour index in a row of a tile: 16 bytes a tile, plane 0 then plane 1, bit 7 leftmost (49 R364,
R365, R372). -/
def tileIndex (base : Nat) (tile : Byte) (row col : Nat) (s : State) : Nat :=
  planeIndex (ppuAt (base + tile.toNat * 16 + row) s) (ppuAt (base + tile.toNat * 16 + row + 8) s) (7 - col)

/-- The background's colour index at a pixel (49 R362 to R365). -/
def bgIndex (x y : Nat) (s : State) : Nat :=
  tileIndex (if s.ppuctrl.getLsbD 4 then 0x1000 else 0x0000)
    (ppuAt (0x2000 + y / 8 * 32 + x / 8) s) (y % 8) (x % 8) s

/-- The attribute of the pixel's quadrant of its 32 by 32 block (49 R366): the shift is 4 for the bottom
half plus 2 for the right half. -/
def bgAttr (x y : Nat) (s : State) : Nat :=
  let ab := ppuAt (0x23C0 + y / 8 / 4 * 8 + x / 8 / 4) s
  let shift := (y / 8 / 2 % 2) * 4 + (x / 8 / 2 % 2) * 2
  ab.toNat / 2 ^ shift % 4

/-- The background switched off by `PPUMASK[3]`, when the configuration lets the mask gate rendering
(49 R368). -/
def bgOff (s : State) : Bool := s.config.maskGates && !s.ppumask.getLsbD 3

/-- The sprites switched off by `PPUMASK[4]`, when the configuration lets the mask gate rendering (49
R375). -/
def spritesOff (s : State) : Bool := s.config.maskGates && !s.ppumask.getLsbD 4

/-- The background pixel: colour index and colour (49 R367, R368). -/
def background (x y : Nat) (s : State) : Nat × Byte :=
  if bgOff s then (0, ppuAt 0x3F00 s)
  else (bgIndex x y s, ppuAt (0x3F00 + bgAttr x y s * 4 + bgIndex x y s) s)

/-- Byte `k` of sprite `i` in OAM: Y, tile, attributes, X (49 R370). -/
def spriteByte (i k : Nat) (s : State) : Byte := s.oam.read (4 * i + k)

/-- Sprite `i`'s box covers the pixel (49 R371). -/
def covers (i x y : Nat) (s : State) : Bool :=
  decide ((spriteByte i 3 s).toNat ≤ x) && decide (x < (spriteByte i 3 s).toNat + 8) &&
    decide ((spriteByte i 0 s).toNat ≤ y) && decide (y < (spriteByte i 0 s).toNat + 8)

/-- A coordinate in the sprite, mirrored by a flip bit when `SPRITE_FLIP` (49 R372). -/
def flipped (flip : Bool) (k : Nat) (s : State) : Nat := if s.config.spriteFlip && flip then 7 - k else k

/-- The colour index of sprite `i` at a pixel it covers (49 R372). -/
def spriteIndex (i x y : Nat) (s : State) : Nat :=
  tileIndex (if s.ppuctrl.getLsbD 3 then 0x1000 else 0x0000) (spriteByte i 1 s)
    (flipped ((spriteByte i 2 s).getLsbD 7) (y - (spriteByte i 0 s).toNat) s)
    (flipped ((spriteByte i 2 s).getLsbD 6) (x - (spriteByte i 3 s).toNat) s) s

/-- Sprite `i` supplies a foreground pixel: it covers the pixel and is not transparent there (49 R373). -/
def opaqueAt (x y : Nat) (s : State) (i : Nat) : Bool := covers i x y s && spriteIndex i x y s != 0

/-- The foreground sprite: the first of the 64, in index order, that is opaque at the pixel (49 R373,
R375). -/
def foreground (x y : Nat) (s : State) : Option Nat :=
  if spritesOff s then none else (List.range 64).find? (opaqueAt x y s)

/-- The colour of sprite `i` at a pixel (49 R373). -/
def spriteColour (i x y : Nat) (s : State) : Byte :=
  ppuAt (0x3F10 + (spriteByte i 2 s).toNat % 4 * 4 + spriteIndex i x y s) s

/-- The composed colour of a pixel (49 R376): a sprite behind the background shows only where the
background is transparent. -/
def pixelColour (x y : Nat) (s : State) : Byte :=
  match foreground x y s with
  | none => (background x y s).2
  | some i =>
    if (spriteByte i 2 s).getLsbD 5 && (background x y s).1 != 0 then (background x y s).2
    else spriteColour i x y s

/-- `EmitPixel(x, y)`: one event to the sink (49 R376, R378). -/
def emitPixel (x y : Nat) (s : State) : State :=
  { s with sink := ⟨BitVec.ofNat 8 x, BitVec.ofNat 8 y, pixelColour x y s⟩ :: s.sink }

end Sys2Proof.Machine
end

