-- ==== Sys2Proof/Machine/PpuClock.lean ====
section
/-! DEFINITION. Sys2Proof/Machine/PpuClock.lean: the PPU's clock (spec 47 R300 to R309) and its reset (70
R445). -/

namespace Sys2Proof.Machine

/-- The events of the position held on entry: vertical blank ends at (-1, 1); it begins at (241, 1), with
the NMI request when `PPUCTRL[7]` (47 R302, R303). -/
def ppuEvents (s : State) : State :=
  if s.scanline = -1 ∧ s.cycle = 1 then { s with vblank := false }
  else if s.scanline = 241 ∧ s.cycle = 1 then
    { s with vblank := true, nmi := s.nmi || s.ppuctrl.getLsbD 7 }
  else s

/-- The pixel of the position, inside the visible window only (47 R305). -/
def ppuPixel (s : State) : State :=
  if 0 ≤ s.scanline ∧ s.scanline < 240 ∧ s.cycle < 256 then emitPixel s.cycle s.scanline.toNat s else s

/-- The advance of the counters (47 R304). -/
def ppuAdvance (s : State) : State :=
  if s.cycle + 1 = 341 then
    if s.scanline + 1 = 261 then { s with cycle := 0, scanline := -1, frameComplete := true }
    else { s with cycle := 0, scanline := s.scanline + 1 }
  else { s with cycle := s.cycle + 1 }

/-- `PPU.Clock()` (47 R300, R301); does nothing with a latched PPU fault. -/
def ppuClock (s : State) : State :=
  match s.ppuFault with
  | some _ => s
  | none => ppuAdvance (ppuPixel (ppuEvents s))

/-- `PPU.Reset()` (70 R445): the memories keep their contents. -/
def ppuReset (s : State) : State :=
  { s with
    scanline := -1, cycle := 0, frameComplete := false, nmi := false, ppuctrl := 0x00#8, ppumask := 0x00#8
    vblank := false, oamAddr := 0x00#8, v := 0x0000#14, w := false, rdbuf := 0x00#8
    scrollX := 0x00#8, scrollY := 0x00#8, ppuFault := none }

end Sys2Proof.Machine
end

