-- ==== Sys2Proof/Machine/Ops.lean ====
section
/-! DEFINITION. Sys2Proof/Machine/Ops.lean: the CPU bus (spec 20), the stack (40 R155 to R157), taking an
exception and returning from one (45 R263, R264, 60 R410, R413), the fault latch (60 R401). -/

namespace Sys2Proof.Machine

/-- What a CPU bus address reaches. -/
inductive Place where
  | ram (i : Nat)
  | prgRam (i : Nat)
  | prgRom (i : Nat)
  | ppuReg (i : BitVec 3)
  | apu
  | unmapped
  deriving DecidableEq, Repr

/-- The console map `NES_NROM` (20 R68 to R73). -/
def nromRoute (c : Config) (addr : Word) : Place :=
  if addr.toNat < 0x2000 then .ram (addr.toNat % 0x0800)
  else if addr.toNat < 0x4000 then .ppuReg (addr.setWidth 3)
  else if addr.toNat < 0x4018 then .apu
  else if addr.toNat < 0x6000 then .unmapped
  else if addr.toNat < 0x8000 then (if c.prgRamPresent then .prgRam (addr.toNat - 0x6000) else .unmapped)
  else .prgRom ((addr.toNat - 0x8000) % c.prgSize)

/-- The bus map of the configuration (20 R66 to R68): `FLAT64K` is RAM everywhere (20 R67). -/
def route (c : Config) (addr : Word) : Place :=
  match c.bus with
  | .flat64k => .ram addr.toNat
  | .nesNrom => nromRoute c addr

/-- `MemRead(addr, 1)` (20 R66 to R73): the byte and the state its read side effects leave (20 R77). -/
def memRead (addr : Word) (s : State) : Res (Byte × State) :=
  match route s.config addr with
  | .ram i => .next (s.ram.read i, s)
  | .prgRam i => .next (s.prgRam.read i, s)
  | .prgRom i => .next (s.prgRom.read i, s)
  | .ppuReg i => ppuReadReg i s
  | .apu => .next (drawByte s, countDraw s)
  | .unmapped => .fault (.invalidBusAddress .cpu addr)

/-- `MemWrite(addr, 1, v)` (20 R66 to R73). -/
def memWrite (addr : Word) (value : Byte) (s : State) : Res State :=
  match route s.config addr with
  | .ram i => .next { s with ram := s.ram.write i value }
  | .prgRam i => .next { s with prgRam := s.prgRam.write i value }
  | .prgRom _ => .fault (.readOnlyViolation .cpu addr)
  | .ppuReg i => ppuWriteReg i value s
  | .apu => .next s
  | .unmapped => .fault (.invalidBusAddress .cpu addr)

/-- The byte of plain memory (RAM, cartridge RAM, cartridge ROM) behind an address, none at a device or at
nothing. It is what claims read memory by, and what the harness port reads (60 R437). -/
def plainByte (addr : Word) (s : State) : Option Byte :=
  match route s.config addr with
  | .ram i => some (s.ram.read i)
  | .prgRam i => some (s.prgRam.read i)
  | .prgRom i => some (s.prgRom.read i)
  | _ => none

/-- A byte placed from outside into the plain memory behind an address (60 R437, log 14). -/
def poke (addr : Word) (value : Byte) (s : State) : State :=
  match route s.config addr with
  | .ram i => { s with ram := s.ram.write i value }
  | .prgRam i => { s with prgRam := s.prgRam.write i value }
  | .prgRom i => { s with prgRom := s.prgRom.write i value }
  | _ => s

/-- `Read16(addr)`: low byte first, the address wraps modulo 0x10000 (00 R10). -/
def read16 (addr : Word) (s : State) : Res (Word × State) :=
  andThen (memRead addr s) fun lo =>
    andThen (memRead (addr + 1#16) lo.2) fun hi => .next (mkWord lo.1 hi.1, hi.2)

/-- The stack address of a stack pointer, `0x0100 | S` (20 R62). -/
def stackAddr (sp : Byte) : Word := 0x0100#16 ||| sp.setWidth 16

/-- `Push(v)` (40 R155). -/
def push (value : Byte) (s : State) : Res State :=
  andThen (memWrite (stackAddr s.sp) value s) fun t => .next { t with sp := t.sp - 1#8 }

/-- `Pull()` (40 R156). -/
def pull (s : State) : Res (Byte × State) :=
  memRead (stackAddr (s.sp + 1#8)) { s with sp := s.sp + 1#8 }

/-- A 16-bit push: high byte, then low byte (40 R157). -/
def push16 (value : Word) (s : State) : Res State :=
  andThen (push (hiByte value) s) fun t => push (loByte value) t

/-- A 16-bit pull: low byte, then high byte (40 R157). -/
def pull16 (s : State) : Res (Word × State) :=
  andThen (pull s) fun lo => andThen (pull lo.2) fun hi => .next (mkWord lo.1 hi.1, hi.2)

/-- Taking an exception: push the return address and a flags byte, set `I`, load `PC` from the vector. The
one sequence of BRK (45 R263), NMI (60 R410) and IRQ (60 R413). -/
def enterVector (ret : Word) (flags : Byte) (vector : Word) (s : State) : Res State :=
  andThen (push16 ret s) fun s1 =>
    andThen (push flags s1) fun s2 =>
      andThen (read16 vector { s2 with p := { s2.p with i := true } }) fun r => .next { r.2 with pc := r.1 }

/-- Returning from an exception: the flags, then `PC` low and high (45 R264, 60 R425). -/
def returnFromException (s : State) : Res State :=
  andThen (pull s) fun r =>
    andThen (pull16 { r.2 with p := Flags.unpack r.1 }) fun q => .next { q.2 with pc := q.1 }

/-- `CPU.NmiEntry()` (60 R410): bit 4 of the pushed flags is 0, vector 0xFFFA. -/
def nmiEntry (s : State) : Res State :=
  andThen (enterVector s.pc (s.p.pack &&& 0xEF#8) 0xFFFA#16 s) fun t =>
    .next { t with rem := t.config.nmiCycles }

/-- `CPU.IrqEntry()` (60 R413): bit 4 of the pushed flags is 0, vector 0xFFFE. -/
def irqEntry (s : State) : Res State :=
  andThen (enterVector s.pc (s.p.pack &&& 0xEF#8) 0xFFFE#16 s) fun t =>
    .next { t with rem := t.config.irqCycles }

/-- The bus a fault was raised on. -/
def Fault.bus : Fault → Bus
  | .unknownOpcode _ => .cpu
  | .invalidBusAddress b _ => b
  | .readOnlyViolation b _ => b

/-- `raise F(info)` latched (60 R401): `cpu_fault`, and `ppu_fault` too when a PPU rule raised it for a CPU
instruction (10 R50). Every other field keeps the value it had before the step (93 U1, log 7), and a new epoch
of draws begins, since the operation may have drawn (00 R10, log 6). -/
def latchFault (f : Fault) (s : State) : State :=
  match f.bus with
  | .cpu => { s with cpuFault := some f, epoch := s.epoch + 1 }
  | .ppu => { s with cpuFault := some f, ppuFault := some f, epoch := s.epoch + 1 }

/-- The fault latched in either unit, the CPU's first. -/
def latchedFault (s : State) : Option Fault :=
  match s.cpuFault with
  | some f => some f
  | none => s.ppuFault

end Sys2Proof.Machine
end

