-- ==== Sys2Proof/Machine/Operands.lean ====
section
/-! DEFINITION. Sys2Proof/Machine/Operands.lean: the thirteen addressing-mode resolvers (spec 40 R140 to
R152), the operand helpers (40 R139) and the frame of a dispatch (40 R132, R133).

A resolver takes the operand bytes it is given as an argument: the clock has already read them, in the
order the resolver lists, and nothing comes between those reads and the resolver (log 8). It still
advances `PC` past them. -/

namespace Sys2Proof.Machine

/-- `PageCross(a, b)`: 1 when the pages differ, else 0 (40 section 2). -/
def pageCross (a b : Word) : Nat := if hiByte a = hiByte b then 0 else 1

/-- IMP (40 R140). -/
def resolveImp (s : State) : Res (Nat × State) := .next (0, s)

/-- ACC (40 R141). -/
def resolveAcc (s : State) : Res (Nat × State) := .next (0, { s with opv := s.a.setWidth 16 })

/-- IMM (40 R142). -/
def resolveImm (v : Byte) (s : State) : Res (Nat × State) :=
  .next (0, { s with opv := v.setWidth 16, pc := s.pc + 1#16 })

/-- ZP (40 R143). -/
def resolveZp (zp : Byte) (s : State) : Res (Nat × State) :=
  .next (0, { s with ea := zp.setWidth 16, pc := s.pc + 1#16 })

/-- ZPX: the index wraps within the zero page (40 R144). -/
def resolveZpx (zp : Byte) (s : State) : Res (Nat × State) :=
  .next (0, { s with ea := (zp + s.x).setWidth 16, pc := s.pc + 1#16 })

/-- ZPY: the index wraps within the zero page (40 R145). -/
def resolveZpy (zp : Byte) (s : State) : Res (Nat × State) :=
  .next (0, { s with ea := (zp + s.y).setWidth 16, pc := s.pc + 1#16 })

/-- REL: the sign-extended displacement (40 R146). -/
def resolveRel (d : Int) (s : State) : Res (Nat × State) :=
  .next (0, { s with opv := BitVec.ofInt 16 d, pc := s.pc + 1#16 })

/-- ABS (40 R147). -/
def resolveAbs (a : Word) (s : State) : Res (Nat × State) :=
  .next (0, { s with ea := a, pc := s.pc + 2#16 })

/-- A base address plus an index byte, with the page-cross cycle (40 R148, R149, R152). -/
def resolveIndexed (base : Word) (index : Byte) (s : State) : Res (Nat × State) :=
  .next (pageCross base (base + index.setWidth 16), { s with ea := base + index.setWidth 16 })

/-- ABX (40 R148). -/
def resolveAbx (a : Word) (s : State) : Res (Nat × State) :=
  resolveIndexed a s.x { s with pc := s.pc + 2#16 }

/-- ABY (40 R149). -/
def resolveAby (a : Word) (s : State) : Res (Nat × State) :=
  resolveIndexed a s.y { s with pc := s.pc + 2#16 }

/-- The address of the high byte of an indirect jump's pointer: it stays in the pointer's page (40 R150). -/
def indirectHigh (ptr : Word) : Word := (ptr &&& 0xFF00#16) ||| ((ptr + 1#16) &&& 0x00FF#16)

/-- IND, with the page-wrap of the high byte (40 R150). -/
def resolveInd (ptr : Word) (s : State) : Res (Nat × State) :=
  andThen (memRead ptr { s with pc := s.pc + 2#16 }) fun lo =>
    andThen (memRead (indirectHigh ptr) lo.2) fun hi => .next (0, { hi.2 with ea := mkWord lo.1 hi.1 })

/-- The word a zero-page pointer holds: its high byte is at `(zp + 1) & 0xFF` (40 R151, R152, 20 R76). -/
def zpPointer (zp : Byte) (s : State) : Res (Word × State) :=
  andThen (memRead (zp.setWidth 16) s) fun lo =>
    andThen (memRead ((zp + 1#8).setWidth 16) lo.2) fun hi => .next (mkWord lo.1 hi.1, hi.2)

/-- IZX (40 R151). -/
def resolveIzx (zp : Byte) (s : State) : Res (Nat × State) :=
  andThen (zpPointer (zp + s.x) { s with pc := s.pc + 1#16 }) fun r => .next (0, { r.2 with ea := r.1 })

/-- IZY: `Y` is added after dereferencing (40 R152). -/
def resolveIzy (zp : Byte) (s : State) : Res (Nat × State) :=
  andThen (zpPointer zp { s with pc := s.pc + 1#16 }) fun r => resolveIndexed r.1 r.2.y r.2

/-- `Operand(mode)`: `opv` for IMM and ACC, else the byte at `ea` (40 R139). -/
def operand (mode : Mode) (s : State) : Res (Byte × State) :=
  if mode = .imm ∨ mode = .acc then .next (s.opv.setWidth 8, s) else memRead s.ea s

/-- `Result(mode, v)`: `A` for ACC, else the byte at `ea` (40 R139). -/
def result (mode : Mode) (v : Byte) (s : State) : Res State :=
  if mode = .acc then .next { s with a := v } else memWrite s.ea v s

/-- The opcode fetch's effect on the CPU's registers: `opcode` written, `PC` past the opcode (40 R132). -/
def beginDispatch (op : Byte) (s : State) : State := { s with opcode := op, pc := s.pc + 1#16 }

/-- `rem <- base + (x1 if page_penalty) + x2 - 1` (40 R133). -/
def finishDispatch (base : Nat) (extra : Extra) (x1 x2 : Nat) (s : State) : State :=
  { s with rem := base + (if extra = .page then x1 else 0) + x2 - 1 }

/-- A dispatch: resolver, handler, remaining cycles (40 R133). -/
def dispatch (op : Byte) (base : Nat) (extra : Extra) (resolve handle : State → Res (Nat × State))
    (s : State) : Res State :=
  andThen (resolve (beginDispatch op s)) fun r =>
    andThen (handle r.2) fun q => .next (finishDispatch base extra r.1 q.1 q.2)

end Sys2Proof.Machine
end

