-- ==== Sys2Proof/Machine/Arith.lean ====
section
/-! DEFINITION. Sys2Proof/Machine/Arith.lean: arithmetic, logic, compares and the bit test (spec 42): the handler of each mnemonic
and the meaning of each row of the opcode table. -/

namespace Sys2Proof.Machine

/-- The addition of ADC with operand `m` (42 R190); `P.D` is not read (10 R27). -/
def addToA (m : Byte) (s : State) : State :=
  { s with a := adcResult s.a m s.p.c, p := s.p.adc s.a m }

/-- ADC (42 R190). -/
def handleAdc (m : Mode) (s : State) : Res (Nat × State) :=
  andThen (operand m s) fun r => .next (0, addToA r.1 r.2)

/-- SBC: ADC with the one's complement of the operand (42 R191). -/
def handleSbc (m : Mode) (s : State) : Res (Nat × State) :=
  andThen (operand m s) fun r => .next (0, addToA (r.1 ^^^ 0xFF#8) r.2)

/-- A logic result written to `A`, with `Z` and `N` (42 R192 to R194). -/
def logicToA (v : Byte) (s : State) : State := { s with a := v, p := s.p.setZN v }

/-- AND (42 R192). -/
def handleAnd (m : Mode) (s : State) : Res (Nat × State) :=
  andThen (operand m s) fun r => .next (0, logicToA (r.2.a &&& r.1) r.2)

/-- ORA (42 R193). -/
def handleOra (m : Mode) (s : State) : Res (Nat × State) :=
  andThen (operand m s) fun r => .next (0, logicToA (r.2.a ||| r.1) r.2)

/-- EOR (42 R194). -/
def handleEor (m : Mode) (s : State) : Res (Nat × State) :=
  andThen (operand m s) fun r => .next (0, logicToA (r.2.a ^^^ r.1) r.2)

/-- CMP (42 R195). -/
def handleCmp (m : Mode) (s : State) : Res (Nat × State) :=
  andThen (operand m s) fun r => .next (0, { r.2 with p := r.2.p.compare r.2.a r.1 })

/-- CPX (42 R196). -/
def handleCpx (m : Mode) (s : State) : Res (Nat × State) :=
  andThen (operand m s) fun r => .next (0, { r.2 with p := r.2.p.compare r.2.x r.1 })

/-- CPY (42 R197). -/
def handleCpy (m : Mode) (s : State) : Res (Nat × State) :=
  andThen (operand m s) fun r => .next (0, { r.2 with p := r.2.p.compare r.2.y r.1 })

/-- BIT (42 R198). -/
def handleBit (m : Mode) (s : State) : Res (Nat × State) :=
  andThen (operand m s) fun r => .next (0, { r.2 with p := r.2.p.bitTest r.2.a r.1 })

/-- ADC IMM (R190, R142). -/
def execAdcImm (v : Byte) (s : State) : Res State :=
  dispatch 0x69#8 2 .none (resolveImm v) (handleAdc .imm) s

/-- ADC ZP (R190, R143). -/
def execAdcZp (zp : Byte) (s : State) : Res State :=
  dispatch 0x65#8 3 .none (resolveZp zp) (handleAdc .zp) s

/-- ADC ZPX (R190, R144). -/
def execAdcZpx (zp : Byte) (s : State) : Res State :=
  dispatch 0x75#8 4 .none (resolveZpx zp) (handleAdc .zpx) s

/-- ADC ABS (R190, R147). -/
def execAdcAbs (a : Word) (s : State) : Res State :=
  dispatch 0x6D#8 4 .none (resolveAbs a) (handleAdc .abs) s

/-- ADC ABX (R190, R148). -/
def execAdcAbx (a : Word) (s : State) : Res State :=
  dispatch 0x7D#8 4 .page (resolveAbx a) (handleAdc .abx) s

/-- ADC ABY (R190, R149). -/
def execAdcAby (a : Word) (s : State) : Res State :=
  dispatch 0x79#8 4 .page (resolveAby a) (handleAdc .aby) s

/-- ADC IZX (R190, R151). -/
def execAdcIzx (zp : Byte) (s : State) : Res State :=
  dispatch 0x61#8 6 .none (resolveIzx zp) (handleAdc .izx) s

/-- ADC IZY (R190, R152). -/
def execAdcIzy (zp : Byte) (s : State) : Res State :=
  dispatch 0x71#8 5 .page (resolveIzy zp) (handleAdc .izy) s

/-- SBC IMM (R191, R142). -/
def execSbcImm (v : Byte) (s : State) : Res State :=
  dispatch 0xE9#8 2 .none (resolveImm v) (handleSbc .imm) s

/-- SBC ZP (R191, R143). -/
def execSbcZp (zp : Byte) (s : State) : Res State :=
  dispatch 0xE5#8 3 .none (resolveZp zp) (handleSbc .zp) s

/-- SBC ZPX (R191, R144). -/
def execSbcZpx (zp : Byte) (s : State) : Res State :=
  dispatch 0xF5#8 4 .none (resolveZpx zp) (handleSbc .zpx) s

/-- SBC ABS (R191, R147). -/
def execSbcAbs (a : Word) (s : State) : Res State :=
  dispatch 0xED#8 4 .none (resolveAbs a) (handleSbc .abs) s

/-- SBC ABX (R191, R148). -/
def execSbcAbx (a : Word) (s : State) : Res State :=
  dispatch 0xFD#8 4 .page (resolveAbx a) (handleSbc .abx) s

/-- SBC ABY (R191, R149). -/
def execSbcAby (a : Word) (s : State) : Res State :=
  dispatch 0xF9#8 4 .page (resolveAby a) (handleSbc .aby) s

/-- SBC IZX (R191, R151). -/
def execSbcIzx (zp : Byte) (s : State) : Res State :=
  dispatch 0xE1#8 6 .none (resolveIzx zp) (handleSbc .izx) s

/-- SBC IZY (R191, R152). -/
def execSbcIzy (zp : Byte) (s : State) : Res State :=
  dispatch 0xF1#8 5 .page (resolveIzy zp) (handleSbc .izy) s

/-- AND IMM (R192, R142). -/
def execAndImm (v : Byte) (s : State) : Res State :=
  dispatch 0x29#8 2 .none (resolveImm v) (handleAnd .imm) s

/-- AND ZP (R192, R143). -/
def execAndZp (zp : Byte) (s : State) : Res State :=
  dispatch 0x25#8 3 .none (resolveZp zp) (handleAnd .zp) s

/-- AND ZPX (R192, R144). -/
def execAndZpx (zp : Byte) (s : State) : Res State :=
  dispatch 0x35#8 4 .none (resolveZpx zp) (handleAnd .zpx) s

/-- AND ABS (R192, R147). -/
def execAndAbs (a : Word) (s : State) : Res State :=
  dispatch 0x2D#8 4 .none (resolveAbs a) (handleAnd .abs) s

/-- AND ABX (R192, R148). -/
def execAndAbx (a : Word) (s : State) : Res State :=
  dispatch 0x3D#8 4 .page (resolveAbx a) (handleAnd .abx) s

/-- AND ABY (R192, R149). -/
def execAndAby (a : Word) (s : State) : Res State :=
  dispatch 0x39#8 4 .page (resolveAby a) (handleAnd .aby) s

/-- AND IZX (R192, R151). -/
def execAndIzx (zp : Byte) (s : State) : Res State :=
  dispatch 0x21#8 6 .none (resolveIzx zp) (handleAnd .izx) s

/-- AND IZY (R192, R152). -/
def execAndIzy (zp : Byte) (s : State) : Res State :=
  dispatch 0x31#8 5 .page (resolveIzy zp) (handleAnd .izy) s

/-- ORA IMM (R193, R142). -/
def execOraImm (v : Byte) (s : State) : Res State :=
  dispatch 0x09#8 2 .none (resolveImm v) (handleOra .imm) s

/-- ORA ZP (R193, R143). -/
def execOraZp (zp : Byte) (s : State) : Res State :=
  dispatch 0x05#8 3 .none (resolveZp zp) (handleOra .zp) s

/-- ORA ZPX (R193, R144). -/
def execOraZpx (zp : Byte) (s : State) : Res State :=
  dispatch 0x15#8 4 .none (resolveZpx zp) (handleOra .zpx) s

/-- ORA ABS (R193, R147). -/
def execOraAbs (a : Word) (s : State) : Res State :=
  dispatch 0x0D#8 4 .none (resolveAbs a) (handleOra .abs) s

/-- ORA ABX (R193, R148). -/
def execOraAbx (a : Word) (s : State) : Res State :=
  dispatch 0x1D#8 4 .page (resolveAbx a) (handleOra .abx) s

/-- ORA ABY (R193, R149). -/
def execOraAby (a : Word) (s : State) : Res State :=
  dispatch 0x19#8 4 .page (resolveAby a) (handleOra .aby) s

/-- ORA IZX (R193, R151). -/
def execOraIzx (zp : Byte) (s : State) : Res State :=
  dispatch 0x01#8 6 .none (resolveIzx zp) (handleOra .izx) s

/-- ORA IZY (R193, R152). -/
def execOraIzy (zp : Byte) (s : State) : Res State :=
  dispatch 0x11#8 5 .page (resolveIzy zp) (handleOra .izy) s

/-- EOR IMM (R194, R142). -/
def execEorImm (v : Byte) (s : State) : Res State :=
  dispatch 0x49#8 2 .none (resolveImm v) (handleEor .imm) s

/-- EOR ZP (R194, R143). -/
def execEorZp (zp : Byte) (s : State) : Res State :=
  dispatch 0x45#8 3 .none (resolveZp zp) (handleEor .zp) s

/-- EOR ZPX (R194, R144). -/
def execEorZpx (zp : Byte) (s : State) : Res State :=
  dispatch 0x55#8 4 .none (resolveZpx zp) (handleEor .zpx) s

/-- EOR ABS (R194, R147). -/
def execEorAbs (a : Word) (s : State) : Res State :=
  dispatch 0x4D#8 4 .none (resolveAbs a) (handleEor .abs) s

/-- EOR ABX (R194, R148). -/
def execEorAbx (a : Word) (s : State) : Res State :=
  dispatch 0x5D#8 4 .page (resolveAbx a) (handleEor .abx) s

/-- EOR ABY (R194, R149). -/
def execEorAby (a : Word) (s : State) : Res State :=
  dispatch 0x59#8 4 .page (resolveAby a) (handleEor .aby) s

/-- EOR IZX (R194, R151). -/
def execEorIzx (zp : Byte) (s : State) : Res State :=
  dispatch 0x41#8 6 .none (resolveIzx zp) (handleEor .izx) s

/-- EOR IZY (R194, R152). -/
def execEorIzy (zp : Byte) (s : State) : Res State :=
  dispatch 0x51#8 5 .page (resolveIzy zp) (handleEor .izy) s

/-- CMP IMM (R195, R142). -/
def execCmpImm (v : Byte) (s : State) : Res State :=
  dispatch 0xC9#8 2 .none (resolveImm v) (handleCmp .imm) s

/-- CMP ZP (R195, R143). -/
def execCmpZp (zp : Byte) (s : State) : Res State :=
  dispatch 0xC5#8 3 .none (resolveZp zp) (handleCmp .zp) s

/-- CMP ZPX (R195, R144). -/
def execCmpZpx (zp : Byte) (s : State) : Res State :=
  dispatch 0xD5#8 4 .none (resolveZpx zp) (handleCmp .zpx) s

/-- CMP ABS (R195, R147). -/
def execCmpAbs (a : Word) (s : State) : Res State :=
  dispatch 0xCD#8 4 .none (resolveAbs a) (handleCmp .abs) s

/-- CMP ABX (R195, R148). -/
def execCmpAbx (a : Word) (s : State) : Res State :=
  dispatch 0xDD#8 4 .page (resolveAbx a) (handleCmp .abx) s

/-- CMP ABY (R195, R149). -/
def execCmpAby (a : Word) (s : State) : Res State :=
  dispatch 0xD9#8 4 .page (resolveAby a) (handleCmp .aby) s

/-- CMP IZX (R195, R151). -/
def execCmpIzx (zp : Byte) (s : State) : Res State :=
  dispatch 0xC1#8 6 .none (resolveIzx zp) (handleCmp .izx) s

/-- CMP IZY (R195, R152). -/
def execCmpIzy (zp : Byte) (s : State) : Res State :=
  dispatch 0xD1#8 5 .page (resolveIzy zp) (handleCmp .izy) s

/-- CPX IMM (R196, R142). -/
def execCpxImm (v : Byte) (s : State) : Res State :=
  dispatch 0xE0#8 2 .none (resolveImm v) (handleCpx .imm) s

/-- CPX ZP (R196, R143). -/
def execCpxZp (zp : Byte) (s : State) : Res State :=
  dispatch 0xE4#8 3 .none (resolveZp zp) (handleCpx .zp) s

/-- CPX ABS (R196, R147). -/
def execCpxAbs (a : Word) (s : State) : Res State :=
  dispatch 0xEC#8 4 .none (resolveAbs a) (handleCpx .abs) s

/-- CPY IMM (R197, R142). -/
def execCpyImm (v : Byte) (s : State) : Res State :=
  dispatch 0xC0#8 2 .none (resolveImm v) (handleCpy .imm) s

/-- CPY ZP (R197, R143). -/
def execCpyZp (zp : Byte) (s : State) : Res State :=
  dispatch 0xC4#8 3 .none (resolveZp zp) (handleCpy .zp) s

/-- CPY ABS (R197, R147). -/
def execCpyAbs (a : Word) (s : State) : Res State :=
  dispatch 0xCC#8 4 .none (resolveAbs a) (handleCpy .abs) s

/-- BIT ZP (R198, R143). -/
def execBitZp (zp : Byte) (s : State) : Res State :=
  dispatch 0x24#8 3 .none (resolveZp zp) (handleBit .zp) s

/-- BIT ABS (R198, R147). -/
def execBitAbs (a : Word) (s : State) : Res State :=
  dispatch 0x2C#8 4 .none (resolveAbs a) (handleBit .abs) s

end Sys2Proof.Machine
end

