-- ==== Sys2Proof/Machine/Branch.lean ====
section
/-! DEFINITION. Sys2Proof/Machine/Branch.lean: branches, jumps, subroutine call and return (spec 44): the handler of each mnemonic
and the meaning of each row of the opcode table. -/

namespace Sys2Proof.Machine

/-- `Branch(cond)`: taken, one cycle more, and another when the target's page is not the next
instruction's (44 R230). -/
def branchIf (cond : Bool) (s : State) : Res (Nat × State) :=
  if cond then .next (1 + pageCross s.pc (s.pc + s.opv), { s with pc := s.pc + s.opv }) else .next (0, s)

/-- BCC (44 R231). -/
def handleBcc (s : State) : Res (Nat × State) := branchIf (!s.p.c) s

/-- BCS (44 R232). -/
def handleBcs (s : State) : Res (Nat × State) := branchIf s.p.c s

/-- BEQ (44 R233). -/
def handleBeq (s : State) : Res (Nat × State) := branchIf s.p.z s

/-- BNE (44 R234). -/
def handleBne (s : State) : Res (Nat × State) := branchIf (!s.p.z) s

/-- BMI (44 R235). -/
def handleBmi (s : State) : Res (Nat × State) := branchIf s.p.n s

/-- BPL (44 R236). -/
def handleBpl (s : State) : Res (Nat × State) := branchIf (!s.p.n) s

/-- BVC (44 R237). -/
def handleBvc (s : State) : Res (Nat × State) := branchIf (!s.p.v) s

/-- BVS (44 R238). -/
def handleBvs (s : State) : Res (Nat × State) := branchIf s.p.v s

/-- JMP: the resolver's `ea` is the target itself (44 R239). -/
def handleJmp (s : State) : Res (Nat × State) := .next (0, { s with pc := s.ea })

/-- JSR: pushes the address of its own last byte (44 R240). -/
def handleJsr (s : State) : Res (Nat × State) :=
  andThen (push16 (s.pc - 1#16) s) fun t => .next (0, { t with pc := t.ea })

/-- RTS: one past the pulled address (44 R241). -/
def handleRts (s : State) : Res (Nat × State) :=
  andThen (pull16 s) fun r => .next (0, { r.2 with pc := r.1 + 1#16 })

/-- BCC REL (R231, R146). -/
def execBcc (d : Int) (s : State) : Res State :=
  dispatch 0x90#8 2 .branch (resolveRel d) handleBcc s

/-- BCS REL (R232, R146). -/
def execBcs (d : Int) (s : State) : Res State :=
  dispatch 0xB0#8 2 .branch (resolveRel d) handleBcs s

/-- BEQ REL (R233, R146). -/
def execBeq (d : Int) (s : State) : Res State :=
  dispatch 0xF0#8 2 .branch (resolveRel d) handleBeq s

/-- BNE REL (R234, R146). -/
def execBne (d : Int) (s : State) : Res State :=
  dispatch 0xD0#8 2 .branch (resolveRel d) handleBne s

/-- BMI REL (R235, R146). -/
def execBmi (d : Int) (s : State) : Res State :=
  dispatch 0x30#8 2 .branch (resolveRel d) handleBmi s

/-- BPL REL (R236, R146). -/
def execBpl (d : Int) (s : State) : Res State :=
  dispatch 0x10#8 2 .branch (resolveRel d) handleBpl s

/-- BVC REL (R237, R146). -/
def execBvc (d : Int) (s : State) : Res State :=
  dispatch 0x50#8 2 .branch (resolveRel d) handleBvc s

/-- BVS REL (R238, R146). -/
def execBvs (d : Int) (s : State) : Res State :=
  dispatch 0x70#8 2 .branch (resolveRel d) handleBvs s

/-- JMP ABS (R239, R147). -/
def execJmpAbs (a : Word) (s : State) : Res State :=
  dispatch 0x4C#8 3 .none (resolveAbs a) handleJmp s

/-- JMP IND (R239, R150). -/
def execJmpInd (a : Word) (s : State) : Res State :=
  dispatch 0x6C#8 5 .none (resolveInd a) handleJmp s

/-- JSR ABS (R240, R147). -/
def execJsr (a : Word) (s : State) : Res State :=
  dispatch 0x20#8 6 .none (resolveAbs a) handleJsr s

/-- RTS IMP (R241, R140). -/
def execRts (s : State) : Res State :=
  dispatch 0x60#8 6 .none resolveImp handleRts s

end Sys2Proof.Machine
end

