-- ==== Sys2Proof/Machine/LoadStore.lean ====
section
/-! DEFINITION. Sys2Proof/Machine/LoadStore.lean: loads, stores and register transfers (spec 41): the handler of each mnemonic
and the meaning of each row of the opcode table. -/

namespace Sys2Proof.Machine

/-- LDA (41 R170). -/
def handleLda (m : Mode) (s : State) : Res (Nat × State) :=
  andThen (operand m s) fun r => .next (0, { r.2 with a := r.1, p := r.2.p.setZN r.1 })

/-- LDX (41 R171). -/
def handleLdx (m : Mode) (s : State) : Res (Nat × State) :=
  andThen (operand m s) fun r => .next (0, { r.2 with x := r.1, p := r.2.p.setZN r.1 })

/-- LDY (41 R172). -/
def handleLdy (m : Mode) (s : State) : Res (Nat × State) :=
  andThen (operand m s) fun r => .next (0, { r.2 with y := r.1, p := r.2.p.setZN r.1 })

/-- A store of a register's value at `ea`; the target is not read first (20 R78). -/
def storeByte (v : Byte) (s : State) : Res (Nat × State) :=
  andThen (memWrite s.ea v s) fun t => .next (0, t)

/-- STA (41 R173). -/
def handleSta (s : State) : Res (Nat × State) := storeByte s.a s

/-- STX (41 R174). -/
def handleStx (s : State) : Res (Nat × State) := storeByte s.x s

/-- STY (41 R175). -/
def handleSty (s : State) : Res (Nat × State) := storeByte s.y s

/-- TAX (41 R176). -/
def handleTax (s : State) : Res (Nat × State) := .next (0, { s with x := s.a, p := s.p.setZN s.a })

/-- TAY (41 R177). -/
def handleTay (s : State) : Res (Nat × State) := .next (0, { s with y := s.a, p := s.p.setZN s.a })

/-- TXA (41 R178). -/
def handleTxa (s : State) : Res (Nat × State) := .next (0, { s with a := s.x, p := s.p.setZN s.x })

/-- TYA (41 R179). -/
def handleTya (s : State) : Res (Nat × State) := .next (0, { s with a := s.y, p := s.p.setZN s.y })

/-- TSX (41 R180). -/
def handleTsx (s : State) : Res (Nat × State) := .next (0, { s with x := s.sp, p := s.p.setZN s.sp })

/-- TXS: no flags (41 R181). -/
def handleTxs (s : State) : Res (Nat × State) := .next (0, { s with sp := s.x })

/-- LDA IMM (R170, R142). -/
def execLdaImm (v : Byte) (s : State) : Res State :=
  dispatch 0xA9#8 2 .none (resolveImm v) (handleLda .imm) s

/-- LDA ZP (R170, R143). -/
def execLdaZp (zp : Byte) (s : State) : Res State :=
  dispatch 0xA5#8 3 .none (resolveZp zp) (handleLda .zp) s

/-- LDA ZPX (R170, R144). -/
def execLdaZpx (zp : Byte) (s : State) : Res State :=
  dispatch 0xB5#8 4 .none (resolveZpx zp) (handleLda .zpx) s

/-- LDA ABS (R170, R147). -/
def execLdaAbs (a : Word) (s : State) : Res State :=
  dispatch 0xAD#8 4 .none (resolveAbs a) (handleLda .abs) s

/-- LDA ABX (R170, R148). -/
def execLdaAbx (a : Word) (s : State) : Res State :=
  dispatch 0xBD#8 4 .page (resolveAbx a) (handleLda .abx) s

/-- LDA ABY (R170, R149). -/
def execLdaAby (a : Word) (s : State) : Res State :=
  dispatch 0xB9#8 4 .page (resolveAby a) (handleLda .aby) s

/-- LDA IZX (R170, R151). -/
def execLdaIzx (zp : Byte) (s : State) : Res State :=
  dispatch 0xA1#8 6 .none (resolveIzx zp) (handleLda .izx) s

/-- LDA IZY (R170, R152). -/
def execLdaIzy (zp : Byte) (s : State) : Res State :=
  dispatch 0xB1#8 5 .page (resolveIzy zp) (handleLda .izy) s

/-- LDX IMM (R171, R142). -/
def execLdxImm (v : Byte) (s : State) : Res State :=
  dispatch 0xA2#8 2 .none (resolveImm v) (handleLdx .imm) s

/-- LDX ZP (R171, R143). -/
def execLdxZp (zp : Byte) (s : State) : Res State :=
  dispatch 0xA6#8 3 .none (resolveZp zp) (handleLdx .zp) s

/-- LDX ZPY (R171, R145). -/
def execLdxZpy (zp : Byte) (s : State) : Res State :=
  dispatch 0xB6#8 4 .none (resolveZpy zp) (handleLdx .zpy) s

/-- LDX ABS (R171, R147). -/
def execLdxAbs (a : Word) (s : State) : Res State :=
  dispatch 0xAE#8 4 .none (resolveAbs a) (handleLdx .abs) s

/-- LDX ABY (R171, R149). -/
def execLdxAby (a : Word) (s : State) : Res State :=
  dispatch 0xBE#8 4 .page (resolveAby a) (handleLdx .aby) s

/-- LDY IMM (R172, R142). -/
def execLdyImm (v : Byte) (s : State) : Res State :=
  dispatch 0xA0#8 2 .none (resolveImm v) (handleLdy .imm) s

/-- LDY ZP (R172, R143). -/
def execLdyZp (zp : Byte) (s : State) : Res State :=
  dispatch 0xA4#8 3 .none (resolveZp zp) (handleLdy .zp) s

/-- LDY ZPX (R172, R144). -/
def execLdyZpx (zp : Byte) (s : State) : Res State :=
  dispatch 0xB4#8 4 .none (resolveZpx zp) (handleLdy .zpx) s

/-- LDY ABS (R172, R147). -/
def execLdyAbs (a : Word) (s : State) : Res State :=
  dispatch 0xAC#8 4 .none (resolveAbs a) (handleLdy .abs) s

/-- LDY ABX (R172, R148). -/
def execLdyAbx (a : Word) (s : State) : Res State :=
  dispatch 0xBC#8 4 .page (resolveAbx a) (handleLdy .abx) s

/-- STA ZP (R173, R143). -/
def execStaZp (zp : Byte) (s : State) : Res State :=
  dispatch 0x85#8 3 .none (resolveZp zp) handleSta s

/-- STA ZPX (R173, R144). -/
def execStaZpx (zp : Byte) (s : State) : Res State :=
  dispatch 0x95#8 4 .none (resolveZpx zp) handleSta s

/-- STA ABS (R173, R147). -/
def execStaAbs (a : Word) (s : State) : Res State :=
  dispatch 0x8D#8 4 .none (resolveAbs a) handleSta s

/-- STA ABX (R173, R148). -/
def execStaAbx (a : Word) (s : State) : Res State :=
  dispatch 0x9D#8 5 .none (resolveAbx a) handleSta s

/-- STA ABY (R173, R149). -/
def execStaAby (a : Word) (s : State) : Res State :=
  dispatch 0x99#8 5 .none (resolveAby a) handleSta s

/-- STA IZX (R173, R151). -/
def execStaIzx (zp : Byte) (s : State) : Res State :=
  dispatch 0x81#8 6 .none (resolveIzx zp) handleSta s

/-- STA IZY (R173, R152). -/
def execStaIzy (zp : Byte) (s : State) : Res State :=
  dispatch 0x91#8 6 .none (resolveIzy zp) handleSta s

/-- STX ZP (R174, R143). -/
def execStxZp (zp : Byte) (s : State) : Res State :=
  dispatch 0x86#8 3 .none (resolveZp zp) handleStx s

/-- STX ZPY (R174, R145). -/
def execStxZpy (zp : Byte) (s : State) : Res State :=
  dispatch 0x96#8 4 .none (resolveZpy zp) handleStx s

/-- STX ABS (R174, R147). -/
def execStxAbs (a : Word) (s : State) : Res State :=
  dispatch 0x8E#8 4 .none (resolveAbs a) handleStx s

/-- STY ZP (R175, R143). -/
def execStyZp (zp : Byte) (s : State) : Res State :=
  dispatch 0x84#8 3 .none (resolveZp zp) handleSty s

/-- STY ZPX (R175, R144). -/
def execStyZpx (zp : Byte) (s : State) : Res State :=
  dispatch 0x94#8 4 .none (resolveZpx zp) handleSty s

/-- STY ABS (R175, R147). -/
def execStyAbs (a : Word) (s : State) : Res State :=
  dispatch 0x8C#8 4 .none (resolveAbs a) handleSty s

/-- TAX IMP (R176, R140). -/
def execTax (s : State) : Res State :=
  dispatch 0xAA#8 2 .none resolveImp handleTax s

/-- TAY IMP (R177, R140). -/
def execTay (s : State) : Res State :=
  dispatch 0xA8#8 2 .none resolveImp handleTay s

/-- TXA IMP (R178, R140). -/
def execTxa (s : State) : Res State :=
  dispatch 0x8A#8 2 .none resolveImp handleTxa s

/-- TYA IMP (R179, R140). -/
def execTya (s : State) : Res State :=
  dispatch 0x98#8 2 .none resolveImp handleTya s

/-- TSX IMP (R180, R140). -/
def execTsx (s : State) : Res State :=
  dispatch 0xBA#8 2 .none resolveImp handleTsx s

/-- TXS IMP (R181, R140). -/
def execTxs (s : State) : Res State :=
  dispatch 0x9A#8 2 .none resolveImp handleTxs s

end Sys2Proof.Machine
end

