-- ==== Sys2Proof/Machine/Shift.lean ====
section
/-! DEFINITION. Sys2Proof/Machine/Shift.lean: shifts, rotates, increments and decrements (spec 43): the handler of each mnemonic
and the meaning of each row of the opcode table. -/

namespace Sys2Proof.Machine

/-- The flags of a shift, then its result written to its operand's place (43 R210 to R213, R220). -/
def shiftTo (m : Mode) (carry : Bool) (v : Byte) (s : State) : Res (Nat × State) :=
  andThen (result m v { s with p := s.p.shift carry v }) fun t => .next (0, t)

/-- ASL (43 R210). -/
def handleAsl (m : Mode) (s : State) : Res (Nat × State) :=
  andThen (operand m s) fun r => shiftTo m (r.1.getLsbD 7) (aslByte r.1) r.2

/-- LSR (43 R211). -/
def handleLsr (m : Mode) (s : State) : Res (Nat × State) :=
  andThen (operand m s) fun r => shiftTo m (r.1.getLsbD 0) (lsrByte r.1) r.2

/-- ROL (43 R212). -/
def handleRol (m : Mode) (s : State) : Res (Nat × State) :=
  andThen (operand m s) fun r => shiftTo m (r.1.getLsbD 7) (rolByte r.2.p.c r.1) r.2

/-- ROR (43 R213). -/
def handleRor (m : Mode) (s : State) : Res (Nat × State) :=
  andThen (operand m s) fun r => shiftTo m (r.1.getLsbD 0) (rorByte r.2.p.c r.1) r.2

/-- `Z` and `N` of a result, then its write at `ea`: INC and DEC (43 R214, R215, R220). -/
def stepTo (v : Byte) (s : State) : Res (Nat × State) :=
  andThen (memWrite s.ea v { s with p := s.p.setZN v }) fun t => .next (0, t)

/-- INC (43 R214). -/
def handleInc (s : State) : Res (Nat × State) :=
  andThen (memRead s.ea s) fun r => stepTo (r.1 + 1#8) r.2

/-- DEC (43 R215). -/
def handleDec (s : State) : Res (Nat × State) :=
  andThen (memRead s.ea s) fun r => stepTo (r.1 - 1#8) r.2

/-- INX (43 R216). -/
def handleInx (s : State) : Res (Nat × State) :=
  .next (0, { s with x := s.x + 1#8, p := s.p.setZN (s.x + 1#8) })

/-- INY (43 R217). -/
def handleIny (s : State) : Res (Nat × State) :=
  .next (0, { s with y := s.y + 1#8, p := s.p.setZN (s.y + 1#8) })

/-- DEX (43 R218). -/
def handleDex (s : State) : Res (Nat × State) :=
  .next (0, { s with x := s.x - 1#8, p := s.p.setZN (s.x - 1#8) })

/-- DEY (43 R219). -/
def handleDey (s : State) : Res (Nat × State) :=
  .next (0, { s with y := s.y - 1#8, p := s.p.setZN (s.y - 1#8) })

/-- ASL ACC (R210, R141). -/
def execAslAcc (s : State) : Res State :=
  dispatch 0x0A#8 2 .none resolveAcc (handleAsl .acc) s

/-- ASL ZP (R210, R143). -/
def execAslZp (zp : Byte) (s : State) : Res State :=
  dispatch 0x06#8 5 .none (resolveZp zp) (handleAsl .zp) s

/-- ASL ZPX (R210, R144). -/
def execAslZpx (zp : Byte) (s : State) : Res State :=
  dispatch 0x16#8 6 .none (resolveZpx zp) (handleAsl .zpx) s

/-- ASL ABS (R210, R147). -/
def execAslAbs (a : Word) (s : State) : Res State :=
  dispatch 0x0E#8 6 .none (resolveAbs a) (handleAsl .abs) s

/-- ASL ABX (R210, R148). -/
def execAslAbx (a : Word) (s : State) : Res State :=
  dispatch 0x1E#8 7 .none (resolveAbx a) (handleAsl .abx) s

/-- LSR ACC (R211, R141). -/
def execLsrAcc (s : State) : Res State :=
  dispatch 0x4A#8 2 .none resolveAcc (handleLsr .acc) s

/-- LSR ZP (R211, R143). -/
def execLsrZp (zp : Byte) (s : State) : Res State :=
  dispatch 0x46#8 5 .none (resolveZp zp) (handleLsr .zp) s

/-- LSR ZPX (R211, R144). -/
def execLsrZpx (zp : Byte) (s : State) : Res State :=
  dispatch 0x56#8 6 .none (resolveZpx zp) (handleLsr .zpx) s

/-- LSR ABS (R211, R147). -/
def execLsrAbs (a : Word) (s : State) : Res State :=
  dispatch 0x4E#8 6 .none (resolveAbs a) (handleLsr .abs) s

/-- LSR ABX (R211, R148). -/
def execLsrAbx (a : Word) (s : State) : Res State :=
  dispatch 0x5E#8 7 .none (resolveAbx a) (handleLsr .abx) s

/-- ROL ACC (R212, R141). -/
def execRolAcc (s : State) : Res State :=
  dispatch 0x2A#8 2 .none resolveAcc (handleRol .acc) s

/-- ROL ZP (R212, R143). -/
def execRolZp (zp : Byte) (s : State) : Res State :=
  dispatch 0x26#8 5 .none (resolveZp zp) (handleRol .zp) s

/-- ROL ZPX (R212, R144). -/
def execRolZpx (zp : Byte) (s : State) : Res State :=
  dispatch 0x36#8 6 .none (resolveZpx zp) (handleRol .zpx) s

/-- ROL ABS (R212, R147). -/
def execRolAbs (a : Word) (s : State) : Res State :=
  dispatch 0x2E#8 6 .none (resolveAbs a) (handleRol .abs) s

/-- ROL ABX (R212, R148). -/
def execRolAbx (a : Word) (s : State) : Res State :=
  dispatch 0x3E#8 7 .none (resolveAbx a) (handleRol .abx) s

/-- ROR ACC (R213, R141). -/
def execRorAcc (s : State) : Res State :=
  dispatch 0x6A#8 2 .none resolveAcc (handleRor .acc) s

/-- ROR ZP (R213, R143). -/
def execRorZp (zp : Byte) (s : State) : Res State :=
  dispatch 0x66#8 5 .none (resolveZp zp) (handleRor .zp) s

/-- ROR ZPX (R213, R144). -/
def execRorZpx (zp : Byte) (s : State) : Res State :=
  dispatch 0x76#8 6 .none (resolveZpx zp) (handleRor .zpx) s

/-- ROR ABS (R213, R147). -/
def execRorAbs (a : Word) (s : State) : Res State :=
  dispatch 0x6E#8 6 .none (resolveAbs a) (handleRor .abs) s

/-- ROR ABX (R213, R148). -/
def execRorAbx (a : Word) (s : State) : Res State :=
  dispatch 0x7E#8 7 .none (resolveAbx a) (handleRor .abx) s

/-- INC ZP (R214, R143). -/
def execIncZp (zp : Byte) (s : State) : Res State :=
  dispatch 0xE6#8 5 .none (resolveZp zp) handleInc s

/-- INC ZPX (R214, R144). -/
def execIncZpx (zp : Byte) (s : State) : Res State :=
  dispatch 0xF6#8 6 .none (resolveZpx zp) handleInc s

/-- INC ABS (R214, R147). -/
def execIncAbs (a : Word) (s : State) : Res State :=
  dispatch 0xEE#8 6 .none (resolveAbs a) handleInc s

/-- INC ABX (R214, R148). -/
def execIncAbx (a : Word) (s : State) : Res State :=
  dispatch 0xFE#8 7 .none (resolveAbx a) handleInc s

/-- DEC ZP (R215, R143). -/
def execDecZp (zp : Byte) (s : State) : Res State :=
  dispatch 0xC6#8 5 .none (resolveZp zp) handleDec s

/-- DEC ZPX (R215, R144). -/
def execDecZpx (zp : Byte) (s : State) : Res State :=
  dispatch 0xD6#8 6 .none (resolveZpx zp) handleDec s

/-- DEC ABS (R215, R147). -/
def execDecAbs (a : Word) (s : State) : Res State :=
  dispatch 0xCE#8 6 .none (resolveAbs a) handleDec s

/-- DEC ABX (R215, R148). -/
def execDecAbx (a : Word) (s : State) : Res State :=
  dispatch 0xDE#8 7 .none (resolveAbx a) handleDec s

/-- INX IMP (R216, R140). -/
def execInx (s : State) : Res State :=
  dispatch 0xE8#8 2 .none resolveImp handleInx s

/-- INY IMP (R217, R140). -/
def execIny (s : State) : Res State :=
  dispatch 0xC8#8 2 .none resolveImp handleIny s

/-- DEX IMP (R218, R140). -/
def execDex (s : State) : Res State :=
  dispatch 0xCA#8 2 .none resolveImp handleDex s

/-- DEY IMP (R219, R140). -/
def execDey (s : State) : Res State :=
  dispatch 0x88#8 2 .none resolveImp handleDey s

end Sys2Proof.Machine
end

