-- ==== Sys2Proof/Machine/System.lean ====
section
/-! DEFINITION. Sys2Proof/Machine/System.lean: stack, flag and system instructions (spec 45): the handler of each mnemonic
and the meaning of each row of the opcode table. -/

namespace Sys2Proof.Machine

/-- PHA (45 R250). -/
def handlePha (s : State) : Res (Nat × State) := andThen (push s.a s) fun t => .next (0, t)

/-- PHP: bit 4 of the pushed byte is 1 (45 R251). -/
def handlePhp (s : State) : Res (Nat × State) :=
  andThen (push (s.p.pack ||| 0x10#8) s) fun t => .next (0, t)

/-- PLA (45 R252). -/
def handlePla (s : State) : Res (Nat × State) :=
  andThen (pull s) fun r => .next (0, { r.2 with a := r.1, p := r.2.p.setZN r.1 })

/-- PLP (45 R253). -/
def handlePlp (s : State) : Res (Nat × State) :=
  andThen (pull s) fun r => .next (0, { r.2 with p := Flags.unpack r.1 })

/-- CLC (45 R254). -/
def handleClc (s : State) : Res (Nat × State) := .next (0, { s with p := { s.p with c := false } })

/-- SEC (45 R255). -/
def handleSec (s : State) : Res (Nat × State) := .next (0, { s with p := { s.p with c := true } })

/-- CLI (45 R256). -/
def handleCli (s : State) : Res (Nat × State) := .next (0, { s with p := { s.p with i := false } })

/-- SEI (45 R257). -/
def handleSei (s : State) : Res (Nat × State) := .next (0, { s with p := { s.p with i := true } })

/-- CLD (45 R258). -/
def handleCld (s : State) : Res (Nat × State) := .next (0, { s with p := { s.p with d := false } })

/-- SED (45 R259). -/
def handleSed (s : State) : Res (Nat × State) := .next (0, { s with p := { s.p with d := true } })

/-- CLV (45 R260). -/
def handleClv (s : State) : Res (Nat × State) := .next (0, { s with p := { s.p with v := false } })

/-- NOP (45 R261). -/
def handleNop (s : State) : Res (Nat × State) := .next (0, s)

/-- BRK: sets `P.B`, then the exception entry with the address of the BRK opcode + 2 and bit 4 of the
pushed flags 1 (45 R263). -/
def handleBrk (s : State) : Res (Nat × State) :=
  andThen (enterVector (s.pc + 1#16) ({ s.p with b := true }.pack ||| 0x10#8) 0xFFFE#16
    { s with p := { s.p with b := true } }) fun t => .next (0, t)

/-- RTI (45 R264). -/
def handleRti (s : State) : Res (Nat × State) := andThen (returnFromException s) fun t => .next (0, t)

/-- PHA IMP (R250, R140). -/
def execPha (s : State) : Res State :=
  dispatch 0x48#8 3 .none resolveImp handlePha s

/-- PHP IMP (R251, R140). -/
def execPhp (s : State) : Res State :=
  dispatch 0x08#8 3 .none resolveImp handlePhp s

/-- PLA IMP (R252, R140). -/
def execPla (s : State) : Res State :=
  dispatch 0x68#8 4 .none resolveImp handlePla s

/-- PLP IMP (R253, R140). -/
def execPlp (s : State) : Res State :=
  dispatch 0x28#8 4 .none resolveImp handlePlp s

/-- CLC IMP (R254, R140). -/
def execClc (s : State) : Res State :=
  dispatch 0x18#8 2 .none resolveImp handleClc s

/-- SEC IMP (R255, R140). -/
def execSec (s : State) : Res State :=
  dispatch 0x38#8 2 .none resolveImp handleSec s

/-- CLI IMP (R256, R140). -/
def execCli (s : State) : Res State :=
  dispatch 0x58#8 2 .none resolveImp handleCli s

/-- SEI IMP (R257, R140). -/
def execSei (s : State) : Res State :=
  dispatch 0x78#8 2 .none resolveImp handleSei s

/-- CLD IMP (R258, R140). -/
def execCld (s : State) : Res State :=
  dispatch 0xD8#8 2 .none resolveImp handleCld s

/-- SED IMP (R259, R140). -/
def execSed (s : State) : Res State :=
  dispatch 0xF8#8 2 .none resolveImp handleSed s

/-- CLV IMP (R260, R140). -/
def execClv (s : State) : Res State :=
  dispatch 0xB8#8 2 .none resolveImp handleClv s

/-- NOP IMP (R261, R140). -/
def execNop (s : State) : Res State :=
  dispatch 0xEA#8 2 .none resolveImp handleNop s

/-- BRK IMP (R263, R140). -/
def execBrk (s : State) : Res State :=
  dispatch 0x00#8 7 .none resolveImp handleBrk s

/-- RTI IMP (R264, R140). -/
def execRti (s : State) : Res State :=
  dispatch 0x40#8 6 .none resolveImp handleRti s

end Sys2Proof.Machine
end

