-- ==== Sys2Proof/Machine/Clock.lean ====
section
/-! DEFINITION. Sys2Proof/Machine/Clock.lean: fetching an instruction, the CPU's clock (spec 40 R130 to R134),
power-up and reset (70), interrupt delivery and the system tick (60 R420), and the host's calls (60
R436). -/

namespace Sys2Proof.Machine

/-- The operand bytes of a template read after the opcode, in order (40 R142 to R152). -/
def fetchOperand (t : Template) (s : State) : Res (Instr × State) :=
  match t with
  | .imp i => .next (i, s)
  | .byte f => andThen (memRead (s.pc + 1#16) s) fun b => .next (f b.1, b.2)
  | .rel f => andThen (memRead (s.pc + 1#16) s) fun b => .next (f b.1.toInt, b.2)
  | .word f => andThen (read16 (s.pc + 1#16) s) fun w => .next (f w.1, w.2)

/-- A fetched byte with no dispatch-table entry (30 R109, R110). -/
def unknownOpcode (c : Config) (op : Byte) : Res (Instr × State) :=
  if op ∈ c.extraOpcodes then .refused (.extraOpcode op) else .fault (.unknownOpcode op)

/-- The instruction at `PC`, and the state its byte reads leave; `PC` is not moved here (log 8). -/
def fetch (s : State) : Res (Instr × State) :=
  andThen (memRead s.pc s) fun op =>
    match templateOf op.1 with
    | some t => fetchOperand t op.2
    | none => unknownOpcode s.config op.1

/-- The fetching step of `CPU.Clock()` (40 R132 to R134): a whole instruction. -/
def fetchStep (s : State) : Res State := andThen (fetch s) fun r => exec r.1 r.2

/-- `CPU.Clock()` of a CPU with no fault latched (40 R134). -/
def cpuClock (s : State) : Res State :=
  if s.rem = 0 then fetchStep s else .next { s with rem := s.rem - 1 }

/-- The three PPU clocks of a system tick (60 R420, 47 R312). -/
def ppuTicks (s : State) : State := ppuClock (ppuClock (ppuClock s))

/-- Interrupt delivery at an instruction boundary: NMI before IRQ (60 R412, R420, R423). -/
def deliver (s : State) : Res State :=
  if s.rem = 0 then
    if s.nmi then nmiEntry { s with nmi := false }
    else if s.irq && !s.p.i then irqEntry s
    else .next s
  else .next s

/-- `SystemTick()` of a machine with no fault latched (60 R420). -/
def systemTick (s : State) : Res State := andThen (deliver (ppuTicks s)) cpuClock

/-- `CPU.PowerUp()` (70 R440). -/
def powerUp (s : State) : Res State :=
  andThen (read16 0xFFFC#16
    { s with
      cpuFault := none, a := 0x00#8, x := 0x00#8, y := 0x00#8, sp := 0xFD#8, p := Flags.reset
      opcode := 0x00#8, ea := 0x0000#16, opv := 0x0000#16, rem := 0 }) fun r => .next { r.2 with pc := r.1 }

/-- `CPU.Reset()`, the warm reset: a latched fault survives it (70 R442). -/
def warmReset (s : State) : Res State :=
  match s.cpuFault with
  | some _ => .next s
  | none =>
    andThen (read16 0xFFFC#16 { s with sp := s.sp - 3#8, p := { s.p with i := true }, rem := 0 }) fun r =>
      .next { r.2 with pc := r.1 }

/-- System power-on after the buses are connected and the memories loaded (70 R446). -/
def powerOn (s : State) : Res State := powerUp (ppuReset { s with irq := false })

/-- The `nmi` strobe of the CPU port: refused, doing nothing, unless at an instruction boundary of a CPU
with no fault latched (60 R411). -/
def nmiStrobe (s : State) : Res State :=
  if s.rem = 0 ∧ latchedFault s = none then nmiEntry s else .next s

/-- The memory pairs of a harness state placed in plain memory (60 R437, log 14). -/
def pokes : List (Word × Byte) → State → State
  | [], s => s
  | c :: cs, s => pokes cs (poke c.1 c.2 s)

/-- The harness load: registers, `Unpack(p)`, the memory pairs, `rem <- 0` (60 R437, 93 U17). -/
def harnessLoad (h : Harness) (s : State) : State :=
  pokes h.ram
    { s with pc := h.pc, sp := h.s, a := h.a, x := h.x, y := h.y, p := Flags.unpack h.p, rem := 0 }

/-- The harness read-out of the registers and of the bytes at the given addresses (60 R437, 10 R30). An
address with no plain memory gives no pair (log 14). -/
def harnessRead (addrs : List Word) (s : State) : Harness where
  pc := s.pc
  s := s.sp
  a := s.a
  x := s.x
  y := s.y
  p := s.p.pack
  ram := addrs.filterMap fun addr => (plainByte addr s).map fun b => (addr, b)

/-- An operation that does nothing with a fault latched in either unit (60 R401, log 17). -/
def unlessLatched (op : State → Res State) (s : State) : Res State :=
  match latchedFault s with
  | some _ => .next s
  | none => op s

/-- One call of the host (60 R436). -/
def hostStrobe (cmd : HostCmd) (s : State) : Res State :=
  match cmd with
  | .systemTick => unlessLatched systemTick s
  | .powerUp => powerUp s
  | .warmReset => warmReset s
  | .ppuReset => .next (ppuReset s)
  | .nmiStrobe => nmiStrobe s
  | .setIrq level => .next { s with irq := level }
  | .ackFrame => .next { s with frameComplete := false }
  | .cpuClock => unlessLatched cpuClock s
  | .load h => .next (harnessLoad h s)

/-- A fault raised in an operation becomes the latch; the rest of the state is the one before the
operation (60 R401, 93 U1, log 7). -/
def settle (s : State) (r : Res State) : Res State :=
  match r with
  | .next t => .next t
  | .fault f => .next (latchFault f s)
  | .refused e => .refused e

/-- One step of the machine: the host's oldest pending call if there is one (00 R13, log 1), else a system tick
(60 R420), which a latched fault stops for good (10 R36, 60 R401, log 7). -/
def machineStep (s : State) : Res State :=
  match s.host with
  | cmd :: rest => settle { s with host := rest } (hostStrobe cmd { s with host := rest })
  | [] =>
    match latchedFault s with
    | some f => .fault f
    | none => settle s (systemTick s)

/-- Bytes placed in plain memory from an address up, modulo 0x10000. -/
def pokeBytes : Word → List Byte → State → State
  | _, [], s => s
  | addr, b :: bs, s => pokeBytes (addr + 1#16) bs (poke addr b s)

/-- The three bytes from an address are plain memory, which a fetch reads with no side effect. -/
def plainFetch (addr : Word) (s : State) : Bool :=
  (plainByte addr s).isSome && (plainByte (addr + 1#16) s).isSome && (plainByte (addr + 2#16) s).isSome

/-- A state whose next step fetches: no fault, no strobe, no interrupt pending or raised by the step's own
PPU clocks, nothing left to retire, and `PC` in plain memory, moved to 0x0000, which is RAM in both bus
maps, where it is not (log 4). -/
def readyToFetch (s : State) : State :=
  let t := { s with
    cpuFault := none, ppuFault := none, host := [], rem := 0, nmi := false, irq := false
    pc := if plainFetch s.pc s then s.pc else 0x0000#16 }
  if (ppuTicks t).nmi then { t with ppuctrl := t.ppuctrl &&& 0x7F#8 } else t

/-- An instruction placed where the next step fetches it (log 4). -/
def placeFetch (nbits w : Nat) (s : State) : State :=
  pokeBytes (readyToFetch s).pc (tableBytes nbits w) (readyToFetch s)

end Sys2Proof.Machine
end

