-- ==== Sys2Proof/Machine/Step.lean ====
section
/-! DEFINITION. Sys2Proof/Machine/Step.lean: the machine's step, and how the host places an instruction where
the step fetches. -/

namespace Sys2Proof.Machine

/-- One step: the host's next pending call, else `SystemTick` (60 R420, log 1). -/
def step (s : State) : Host.Outcome State Fault Refusal := machineStep s

/-- The state with the instruction of a table word stored where the next step fetches it (log 4). -/
def State.withFetchWord (s : State) (nbits w : Nat) : State := placeFetch nbits w s

end Sys2Proof.Machine
end

