-- ==== Sys2Proof/Machine/Execute.lean ====
section
/-! DEFINITION. Sys2Proof/Machine/Execute.lean: the table-driven reading of a dispatch (spec 40 R133): the
resolver of an instruction's mode and the handler of its mnemonic. `exec` does not use it; claims compare
every meaning with it. -/

namespace Sys2Proof.Machine

/-- The resolver of an instruction's addressing mode, given its operand (40 R133 (1)). -/
def resolve (i : Instr) (s : State) : Res (Nat × State) :=
  match i with
  | .tax | .tay | .txa | .tya | .tsx | .txs | .inx | .iny | .dex | .dey | .rts | .pha | .php | .pla
  | .plp | .clc | .sec | .cli | .sei | .cld | .sed | .clv | .nop | .brk | .rti => resolveImp s
  | .aslAcc | .lsrAcc | .rolAcc | .rorAcc => resolveAcc s
  | .ldaImm b | .ldxImm b | .ldyImm b | .adcImm b | .sbcImm b | .andImm b | .oraImm b | .eorImm b
  | .cmpImm b | .cpxImm b | .cpyImm b => resolveImm b s
  | .ldaZp b | .ldxZp b | .ldyZp b | .staZp b | .stxZp b | .styZp b | .adcZp b | .sbcZp b | .andZp b
  | .oraZp b | .eorZp b | .cmpZp b | .cpxZp b | .cpyZp b | .bitZp b | .aslZp b | .lsrZp b | .rolZp b
  | .rorZp b | .incZp b | .decZp b => resolveZp b s
  | .ldaZpx b | .ldyZpx b | .staZpx b | .styZpx b | .adcZpx b | .sbcZpx b | .andZpx b | .oraZpx b
  | .eorZpx b | .cmpZpx b | .aslZpx b | .lsrZpx b | .rolZpx b | .rorZpx b | .incZpx b | .decZpx b => resolveZpx b s
  | .ldxZpy b | .stxZpy b => resolveZpy b s
  | .bcc d | .bcs d | .beq d | .bne d | .bmi d | .bpl d | .bvc d | .bvs d => resolveRel d s
  | .ldaAbs w | .ldxAbs w | .ldyAbs w | .staAbs w | .stxAbs w | .styAbs w | .adcAbs w | .sbcAbs w
  | .andAbs w | .oraAbs w | .eorAbs w | .cmpAbs w | .cpxAbs w | .cpyAbs w | .bitAbs w | .aslAbs w
  | .lsrAbs w | .rolAbs w | .rorAbs w | .incAbs w | .decAbs w | .jmpAbs w | .jsr w => resolveAbs w s
  | .ldaAbx w | .ldyAbx w | .staAbx w | .adcAbx w | .sbcAbx w | .andAbx w | .oraAbx w | .eorAbx w
  | .cmpAbx w | .aslAbx w | .lsrAbx w | .rolAbx w | .rorAbx w | .incAbx w | .decAbx w => resolveAbx w s
  | .ldaAby w | .ldxAby w | .staAby w | .adcAby w | .sbcAby w | .andAby w | .oraAby w | .eorAby w
  | .cmpAby w => resolveAby w s
  | .jmpInd w => resolveInd w s
  | .ldaIzx b | .staIzx b | .adcIzx b | .sbcIzx b | .andIzx b | .oraIzx b | .eorIzx b | .cmpIzx b => resolveIzx b s
  | .ldaIzy b | .staIzy b | .adcIzy b | .sbcIzy b | .andIzy b | .oraIzy b | .eorIzy b | .cmpIzy b => resolveIzy b s

/-- The handler of a mnemonic in a mode (40 R133 (2)). -/
def execute (k : Mnemonic) (m : Mode) (s : State) : Res (Nat × State) :=
  match k with
  | .lda => handleLda m s
  | .ldx => handleLdx m s
  | .ldy => handleLdy m s
  | .sta => handleSta s
  | .stx => handleStx s
  | .sty => handleSty s
  | .tax => handleTax s
  | .tay => handleTay s
  | .txa => handleTxa s
  | .tya => handleTya s
  | .tsx => handleTsx s
  | .txs => handleTxs s
  | .adc => handleAdc m s
  | .sbc => handleSbc m s
  | .and => handleAnd m s
  | .ora => handleOra m s
  | .eor => handleEor m s
  | .cmp => handleCmp m s
  | .cpx => handleCpx m s
  | .cpy => handleCpy m s
  | .bit => handleBit m s
  | .asl => handleAsl m s
  | .lsr => handleLsr m s
  | .rol => handleRol m s
  | .ror => handleRor m s
  | .inc => handleInc s
  | .dec => handleDec s
  | .inx => handleInx s
  | .iny => handleIny s
  | .dex => handleDex s
  | .dey => handleDey s
  | .bcc => handleBcc s
  | .bcs => handleBcs s
  | .beq => handleBeq s
  | .bne => handleBne s
  | .bmi => handleBmi s
  | .bpl => handleBpl s
  | .bvc => handleBvc s
  | .bvs => handleBvs s
  | .jmp => handleJmp s
  | .jsr => handleJsr s
  | .rts => handleRts s
  | .pha => handlePha s
  | .php => handlePhp s
  | .pla => handlePla s
  | .plp => handlePlp s
  | .clc => handleClc s
  | .sec => handleSec s
  | .cli => handleCli s
  | .sei => handleSei s
  | .cld => handleCld s
  | .sed => handleSed s
  | .clv => handleClv s
  | .nop => handleNop s
  | .brk => handleBrk s
  | .rti => handleRti s

/-- The dispatch of an instruction by its table entry (40 R133). -/
def dispatchEntry (i : Instr) (s : State) : Res State :=
  dispatch i.entry.opcode i.entry.base i.entry.extra (resolve i) (execute i.entry.mnemonic i.entry.mode) s

end Sys2Proof.Machine
end

