-- ==== Sys2Proof/Safety.lean ====
section
/-! DEFINITION. Sys2Proof/Safety.lean: the terms claims are stated in: the invariant of the machine, which
addresses can be read and written, what an instruction reads, and which instructions write what. -/

namespace Sys2Proof.Machine

/-- The size of CPU RAM in a bus map (20 R67, R69). -/
def ramSize (c : Config) : Nat :=
  match c.bus with
  | .flat64k => 0x10000
  | .nesNrom => 0x0800

/-- The four palette indexes that are not cells of their own (10 R48). -/
def palPaired (i : Nat) : Bool := i == 0x10 || i == 0x14 || i == 0x18 || i == 0x1C

/-- The largest remaining-cycle count a rule stores: 6 by a dispatch, or an entry's cycles (10 R34). -/
def remMax (c : Config) : Nat := max 6 (max c.nmiCycles c.irqCycles)

/-- The machine's invariant: the configuration is one the spec admits, the counters are in their ranges (10
R34, R40), every memory is in canonical form within its size, and palette RAM holds 28 cells (10 R48). -/
structure StateInv (s : State) : Prop where
  config : s.config.WellFormed = true
  rem : s.rem ≤ remMax s.config
  cycle : s.cycle ≤ 340
  scanline : -1 ≤ s.scanline ∧ s.scanline ≤ 260
  ram : Memory.wf (ramSize s.config) s.ram
  prgRam : Memory.wf 0x2000 s.prgRam
  prgRom : Memory.wf s.config.prgSize s.prgRom
  chr : Memory.wf 0x2000 s.chr
  nt : Memory.wf s.config.ntSize s.nt
  pal : Memory.wf 32 s.pal ∧ ∀ c ∈ s.pal, palPaired c.1 = false
  oam : Memory.wf 0x100 s.oam

/-- The address can be read: it reaches something (60 R403). -/
def Readable (addr : Word) (s : State) : Bool :=
  match route s.config addr with
  | .unmapped => false
  | _ => true

/-- The address can be written: it reaches something that is not program ROM (60 R403, R404), nor, through
`PPUDATA`, graphics ROM (48 R341). -/
def Writable (addr : Word) (s : State) : Bool :=
  match route s.config addr with
  | .unmapped => false
  | .prgRom _ => false
  | .ppuReg i => i != 7#3 || s.ppuFault.isSome || decide (0x2000 ≤ s.v.toNat) || s.config.chrWritable
  | _ => true

/-- The state in which an instruction's resolver starts. -/
def begun (i : Instr) (s : State) : State := beginDispatch i.entry.opcode s

/-- The state the resolver leaves for the handler, with the page-cross cycle `x1` (40 R133 (1)). -/
def Resolves (i : Instr) (s : State) (x1 : Nat) (s1 : State) : Prop := resolve i (begun i s) = .next (x1, s1)

/-- The operand byte `m` the handler obtains, the state `t` its read leaves, and the page-cross cycle `x1`
(40 R133, R139). -/
def OperandGives (i : Instr) (s : State) (x1 : Nat) (m : Byte) (t : State) : Prop :=
  ∃ s1, Resolves i s x1 s1 ∧ operand i.entry.mode s1 = .next (m, t)

/-- The operand of an instruction can be read: it is an immediate, or the accumulator, or at an address that
can be read. -/
def OperandReadable (i : Instr) (s : State) : Prop :=
  ∀ x1 s1, Resolves i s x1 s1 → i.entry.mode = .imm ∨ i.entry.mode = .acc ∨ Readable s1.ea s1 = true

/-- The address an instruction stores to can be written. -/
def OperandWritable (i : Instr) (s : State) : Prop :=
  ∀ x1 s1, Resolves i s x1 s1 → Writable s1.ea s1 = true

/-- A read-modify-write instruction's address can be written once its byte has been read. -/
def ModifyWritable (i : Instr) (s : State) : Prop :=
  ∀ x1 m t, OperandGives i s x1 m t → Writable t.ea t = true

/-- The remaining cycles after a dispatch (40 R133 (3)). -/
def cyclesLeft (i : Instr) (x1 x2 : Nat) : Nat :=
  i.entry.base + (if i.entry.extra = .page then x1 else 0) + x2 - 1

/-- The base cycles of the instructions that read an operand, by mode (70 R471). -/
def readCycles (m : Mode) : Nat :=
  match m with
  | .imm => 2
  | .zp => 3
  | .izx => 6
  | .izy => 5
  | _ => 4

/-- The base cycles of the stores, by mode (70 R471). -/
def storeCycles (m : Mode) : Nat :=
  match m with
  | .zp => 3
  | .abx | .aby => 5
  | .izx | .izy => 6
  | _ => 4

/-- The base cycles of the shifts, INC and DEC, by mode (70 R471). -/
def modifyCycles (m : Mode) : Nat :=
  match m with
  | .acc => 2
  | .zp => 5
  | .abx => 7
  | _ => 6

/-- The base cycles of an instruction by its class and mode, as the tables of 70 R471 and R472 give them. -/
def baseCycles (k : Mnemonic) (m : Mode) : Nat :=
  match k with
  | .lda | .ldx | .ldy | .adc | .sbc | .and | .ora | .eor | .cmp | .cpx | .cpy | .bit => readCycles m
  | .sta | .stx | .sty => storeCycles m
  | .asl | .lsr | .rol | .ror | .inc | .dec => modifyCycles m
  | .jmp => if m = .ind then 5 else 3
  | .jsr | .rts | .rti => 6
  | .brk => 7
  | .pha | .php => 3
  | .pla | .plp => 4
  | _ => 2

/-- The mnemonics whose entries add the page-cross cycle, in the modes that can cross (40 R135). -/
def addsPageCross (k : Mnemonic) (m : Mode) : Bool :=
  match k with
  | .lda | .ldx | .ldy | .adc | .sbc | .and | .ora | .eor | .cmp => m = .abx || m = .aby || m = .izy
  | _ => false

/-- The instructions that write `A` (10 R20): the shifts in accumulator mode only. -/
def writesA (k : Mnemonic) (m : Mode) : Bool :=
  match k with
  | .lda | .adc | .sbc | .and | .ora | .eor | .pla | .txa | .tya => true
  | .asl | .lsr | .rol | .ror => m = .acc
  | _ => false

/-- The instructions that write `X` (10 R20). -/
def writesX (k : Mnemonic) : Bool :=
  match k with
  | .ldx | .tax | .tsx | .inx | .dex => true
  | _ => false

/-- The instructions that write `Y` (10 R20). -/
def writesY (k : Mnemonic) : Bool :=
  match k with
  | .ldy | .tay | .iny | .dey => true
  | _ => false

/-- The instructions that write `S`: those that push or pull, and TXS (10 R21). -/
def writesS (k : Mnemonic) : Bool :=
  match k with
  | .pha | .php | .pla | .plp | .jsr | .rts | .brk | .rti | .txs => true
  | _ => false

/-- The instructions that write `PC` after the operand bytes (10 R23). -/
def transfersControl (k : Mnemonic) : Bool :=
  match k with
  | .bcc | .bcs | .beq | .bne | .bmi | .bpl | .bvc | .bvs | .jmp | .jsr | .rts | .brk | .rti => true
  | _ => false

/-- The instructions that write `P.C` (10 R26). -/
def writesC (k : Mnemonic) : Bool :=
  match k with
  | .adc | .sbc | .asl | .lsr | .rol | .ror | .cmp | .cpx | .cpy | .clc | .sec | .plp | .rti => true
  | _ => false

/-- The instructions that write `P.Z` and `P.N` (10 R26). -/
def writesZN (k : Mnemonic) : Bool :=
  match k with
  | .lda | .ldx | .ldy | .tax | .tay | .txa | .tya | .tsx | .pla | .adc | .sbc | .and | .ora | .eor | .cmp
  | .cpx | .cpy | .bit | .asl | .lsr | .rol | .ror | .inc | .dec | .inx | .iny | .dex | .dey | .plp
  | .rti => true
  | _ => false

/-- The instructions that write `P.I` (10 R26). -/
def writesI (k : Mnemonic) : Bool :=
  match k with
  | .sei | .cli | .plp | .rti | .brk => true
  | _ => false

/-- The instructions that write `P.D` (10 R26). -/
def writesD (k : Mnemonic) : Bool :=
  match k with
  | .sed | .cld | .plp | .rti => true
  | _ => false

/-- The instructions that write `P.B` (10 R26). -/
def writesB (k : Mnemonic) : Bool :=
  match k with
  | .brk | .plp | .rti => true
  | _ => false

/-- The instructions that write `P.V` (10 R26). -/
def writesV (k : Mnemonic) : Bool :=
  match k with
  | .adc | .sbc | .bit | .clv | .plp | .rti => true
  | _ => false

/-- The forms that store to the address their mode computes: the stores, and the shifts, INC and DEC of
memory (41 R173 to R175, 43 R220). -/
def storesAtEa (k : Mnemonic) (m : Mode) : Bool :=
  match k with
  | .sta | .stx | .sty | .inc | .dec => true
  | .asl | .lsr | .rol | .ror => m ≠ .acc
  | _ => false

/-- The instructions that store to the stack (44 R240, 45 R250, R251, R263). -/
def storesAtStack (k : Mnemonic) : Bool :=
  match k with
  | .pha | .php | .jsr | .brk => true
  | _ => false

/-- The 105 byte values with no row in the opcode table (30 R109). -/
def undefinedOpcodes : List Byte :=
  [0x02#8, 0x03#8, 0x04#8, 0x07#8, 0x0B#8, 0x0C#8, 0x0F#8, 0x12#8, 0x13#8, 0x14#8, 0x17#8, 0x1A#8,
    0x1B#8, 0x1C#8, 0x1F#8, 0x22#8, 0x23#8, 0x27#8, 0x2B#8, 0x2F#8, 0x32#8, 0x33#8, 0x34#8, 0x37#8,
    0x3A#8, 0x3B#8, 0x3C#8, 0x3F#8, 0x42#8, 0x43#8, 0x44#8, 0x47#8, 0x4B#8, 0x4F#8, 0x52#8] ++
  [0x53#8, 0x54#8, 0x57#8, 0x5A#8, 0x5B#8, 0x5C#8, 0x5F#8, 0x62#8, 0x63#8, 0x64#8, 0x67#8, 0x6B#8,
    0x6F#8, 0x72#8, 0x73#8, 0x74#8, 0x77#8, 0x7A#8, 0x7B#8, 0x7C#8, 0x7F#8, 0x80#8, 0x82#8, 0x83#8,
    0x87#8, 0x89#8, 0x8B#8, 0x8F#8, 0x92#8, 0x93#8, 0x97#8, 0x9B#8, 0x9C#8, 0x9E#8, 0x9F#8] ++
  [0xA3#8, 0xA7#8, 0xAB#8, 0xAF#8, 0xB2#8, 0xB3#8, 0xB7#8, 0xBB#8, 0xBF#8, 0xC2#8, 0xC3#8, 0xC7#8,
    0xCB#8, 0xCF#8, 0xD2#8, 0xD3#8, 0xD4#8, 0xD7#8, 0xDA#8, 0xDB#8, 0xDC#8, 0xDF#8, 0xE2#8, 0xE3#8,
    0xE7#8, 0xEB#8, 0xEF#8, 0xF2#8, 0xF3#8, 0xF4#8, 0xF7#8, 0xFA#8, 0xFB#8, 0xFC#8, 0xFF#8]

/-- The opcode byte of the instruction is read at `PC` (40 R132). -/
def FetchedOpcode (i : Instr) (s t : State) : Prop := memRead s.pc s = .next (i.entry.opcode, t)

/-- The opcode byte is read at `PC`, then the operand byte at `PC + 1` (30 R100, 40 R142). -/
def FetchedByte (i : Instr) (b : Byte) (s t : State) : Prop :=
  ∃ u, FetchedOpcode i s u ∧ memRead (s.pc + 1#16) u = .next (b, t)

/-- The opcode byte is read at `PC`, then the operand's low byte at `PC + 1` and its high byte at `PC + 2`
(30 R100, R105, 40 R147). -/
def FetchedWord (i : Instr) (w : Word) (s t : State) : Prop :=
  ∃ u lo u' hi, FetchedOpcode i s u ∧ memRead (s.pc + 1#16) u = .next (lo, u') ∧
    memRead (s.pc + 2#16) u' = .next (hi, t) ∧ w = BitVec.ofNat 16 (lo.toNat + 256 * hi.toNat)

/-- Plain memory holds the bytes from the address up, modulo 0x10000. -/
def HoldsBytes : Word → List Byte → State → Prop
  | _, [], _ => True
  | addr, b :: bs, s => plainByte addr s = some b ∧ HoldsBytes (addr + 1#16) bs s

/-- The state after a branch with opcode `op` and displacement `d`, by whether its condition holds: the page
compared is that of the next instruction's address (44 R230). -/
def branchAfter (op : Byte) (taken : Bool) (d : Int) (s : State) : State :=
  if taken then
    { s with
      opcode := op, opv := BitVec.ofInt 16 d, pc := s.pc + 2#16 + BitVec.ofInt 16 d
      rem := if (s.pc + 2#16 + BitVec.ofInt 16 d).toNat / 256 = (s.pc + 2#16).toNat / 256 then 2 else 3 }
  else { s with opcode := op, opv := BitVec.ofInt 16 d, pc := s.pc + 2#16, rem := 1 }

/-- The modes that compute an address (40 R143 to R145, R147 to R152). -/
def computesAddress (m : Mode) : Bool :=
  match m with
  | .imp | .acc | .imm | .rel => false
  | .zp | .zpx | .zpy | .abs | .abx | .aby | .ind | .izx | .izy => true

/-- How many bytes an instruction pushes (44 R240, 45 R250, R251, R263). -/
def pushCount (k : Mnemonic) : Nat :=
  match k with
  | .pha | .php => 1
  | .jsr => 2
  | .brk => 3
  | _ => 0

/-- That many PPU clocks. -/
def ppuClocks : Nat → State → State
  | 0, s => s
  | n + 1, s => ppuClock (ppuClocks n s)

/-- The step from `s` is a system tick in the state `u`: the host has no call pending, or its next one is the tick
(00 R13, log 1). -/
def Ticks (s u : State) : Prop :=
  (s.host = [] ∧ u = s) ∨ (s.host = .systemTick :: u.host ∧ u = { s with host := u.host })

/-- A system tick delivers no interrupt and fetches: no fault latched, an instruction boundary, no NMI request
after the PPU's clocks, and the IRQ low or masked (60 R420). -/
def RunsInstruction (s : State) : Prop :=
  latchedFault s = none ∧ s.rem = 0 ∧ (ppuTicks s).nmi = false ∧ (s.irq = false ∨ s.p.i = true)

/-- The whole PPU, apart from its ports: everything of the state that 10 R40 to R50 list. -/
structure PpuPart where
  cycle : Nat
  scanline : Int
  frameComplete : Bool
  nmi : Bool
  ppuctrl : Byte
  ppumask : Byte
  vblank : Bool
  oamAddr : Byte
  v : PpuAddr
  w : Bool
  rdbuf : Byte
  scrollX : Byte
  scrollY : Byte
  ppuFault : Option Fault
  nt : Memory
  pal : Memory
  oam : Memory
  chr : Memory
  deriving DecidableEq, Repr

/-- The PPU's part of a state. -/
def ppuPart (s : State) : PpuPart :=
  ⟨s.cycle, s.scanline, s.frameComplete, s.nmi, s.ppuctrl, s.ppumask, s.vblank, s.oamAddr, s.v, s.w, s.rdbuf,
    s.scrollX, s.scrollY, s.ppuFault, s.nt, s.pal, s.oam, s.chr⟩

end Sys2Proof.Machine
end

