-- ==== Sys2Proof/Certificates/Slice0/Obligations.lean ====
section
/-! DEFINITION. Sys2Proof/Certificates/Slice0/Obligations.lean: the statements for the provers. Where one
rests on a choice this spec marks as its own decision (D<n> of spec 92), or on a choice of the model (log
<n>), its docstring says so. -/

section
open Sys2Proof Sys2Proof.Machine

/-! ## Encoding -/

/-- Decoding the bytes of a well-formed instruction, whatever bytes follow, gives it back (30 R100 to R106). -/
def Obligations.DecodeOfEncode : Prop :=
  ∀ (i : Instr) (rest : List Byte), i.WellFormed = true → decode (encode i ++ rest) = some (i, rest)

/-- Every accepted byte string is the encoding of the well-formed instruction it decodes to, followed by the
rest (30 R100 to R106); and its row has the base cycles of its class and mode, the page-cross cycle exactly in
the read-class rows, and the branch cycles exactly in the branches (30 R106, 40 R135, 70 R471, R472; decisions
D2, D7). -/
def Obligations.EncodeOfDecode : Prop :=
  ∀ (bs rest : List Byte) (i : Instr), decode bs = some (i, rest) →
    i.WellFormed = true ∧ bs = encode i ++ rest ∧
    i.entry.base = baseCycles i.entry.mnemonic i.entry.mode ∧
    (i.entry.extra = .page ↔ addsPageCross i.entry.mnemonic i.entry.mode = true) ∧
    (i.entry.extra = .branch ↔ i.entry.mode = .rel)

/-- Words written out from 30 R106 and R105 decode to the instructions they stand for. -/
def Obligations.SampleWordsDecode : Prop :=
  decodeTableWord 16 0x00A9 = some (.ldaImm 0x00#8) ∧ decodeTableWord 24 0x20FFBD = some (.ldaAbx 0x20FF#16) ∧
  decodeTableWord 16 0x1085 = some (.staZp 0x10#8) ∧ decodeTableWord 16 0x5069 = some (.adcImm 0x50#8) ∧
  decodeTableWord 8 0x6A = some .rorAcc ∧ decodeTableWord 16 0x10E6 = some (.incZp 0x10#8) ∧
  decodeTableWord 16 0xFBD0 = some (.bne (-5)) ∧ decodeTableWord 24 0x000F4C = some (.jmpAbs 0x000F#16) ∧
  decodeTableWord 24 0x02FF6C = some (.jmpInd 0x02FF#16) ∧ decodeTableWord 8 0xE8 = some .inx ∧
  decodeTableWord 8 0x00 = some .brk ∧ decodeTableWord 8 0x02 = none

/-- The 105 byte values of 30 R109, and no others, have no row; fetching one raises `UnknownOpcode` with the
byte, whatever its fetch did (the configuration's `EXTRA_OPCODES`, empty by default, excepted: R110). -/
def Obligations.UndefinedOpcodesFault : Prop :=
  undefinedOpcodes.length = 105 ∧ undefinedOpcodes.Nodup ∧
  (∀ op, templateOf op = none ↔ op ∈ undefinedOpcodes) ∧
  ∀ (s t : State) (op : Byte), s.rem = 0 → memRead s.pc s = .next (op, t) → op ∈ undefinedOpcodes →
    op ∉ s.config.extraOpcodes → cpuClock s = .fault (.unknownOpcode op)

/-! ## The dispatch and the addressing modes -/

/-- IMP, ACC, IMM and REL: what is fetched, in order, what the resolver writes, and that it returns 0 (40 R132,
R140 to R142, R146). That the resolver starts with its operand bytes read is log 8. -/
def Obligations.RegisterAndImmediateModes : Prop :=
  ∀ (i : Instr) (s t : State), fetch s = .next (i, t) →
    (i.entry.mode = .imp → FetchedOpcode i s t ∧
      Resolves i t 0 { t with opcode := i.entry.opcode, pc := t.pc + 1#16 }) ∧
    (i.entry.mode = .acc → FetchedOpcode i s t ∧
      Resolves i t 0 { t with opcode := i.entry.opcode, pc := t.pc + 1#16, opv := BitVec.ofNat 16 t.a.toNat }) ∧
    (i.entry.mode = .imm → ∃ b, FetchedByte i b s t ∧
      Resolves i t 0 { t with opcode := i.entry.opcode, pc := t.pc + 2#16, opv := BitVec.ofNat 16 b.toNat }) ∧
    (i.entry.mode = .rel → ∃ b, FetchedByte i b s t ∧
      Resolves i t 0 { t with opcode := i.entry.opcode, pc := t.pc + 2#16, opv := BitVec.signExtend 16 b })

/-- ZP, ZPX and ZPY: the address is the fetched byte, plus the index modulo 256 (40 R132, R143 to R145).
That the resolver starts with its operand byte read is log 8. -/
def Obligations.ZeroPageModes : Prop :=
  ∀ (i : Instr) (s t : State), fetch s = .next (i, t) →
    (i.entry.mode = .zp → ∃ b, FetchedByte i b s t ∧
      Resolves i t 0 { t with opcode := i.entry.opcode, pc := t.pc + 2#16, ea := BitVec.ofNat 16 b.toNat }) ∧
    (i.entry.mode = .zpx → ∃ b, FetchedByte i b s t ∧
      Resolves i t 0 { t with
        opcode := i.entry.opcode, pc := t.pc + 2#16, ea := BitVec.ofNat 16 ((b.toNat + t.x.toNat) % 256) }) ∧
    (i.entry.mode = .zpy → ∃ b, FetchedByte i b s t ∧
      Resolves i t 0 { t with
        opcode := i.entry.opcode, pc := t.pc + 2#16, ea := BitVec.ofNat 16 ((b.toNat + t.y.toNat) % 256) })

/-- ABS, ABX and ABY: the address is the fetched word, plus the index modulo 0x10000; the indexed modes
return 1 exactly when the sum leaves the word's page (40 R132, R147 to R149). That the resolver starts with its
operand word read is log 8. -/
def Obligations.AbsoluteModes : Prop :=
  ∀ (i : Instr) (s t : State), fetch s = .next (i, t) →
    (i.entry.mode = .abs → ∃ w, FetchedWord i w s t ∧
      Resolves i t 0 { t with opcode := i.entry.opcode, pc := t.pc + 3#16, ea := w }) ∧
    (i.entry.mode = .abx → ∃ w, FetchedWord i w s t ∧
      Resolves i t (if (w.toNat + t.x.toNat) / 256 = w.toNat / 256 then 0 else 1)
        { t with opcode := i.entry.opcode, pc := t.pc + 3#16, ea := BitVec.ofNat 16 (w.toNat + t.x.toNat) }) ∧
    (i.entry.mode = .aby → ∃ w, FetchedWord i w s t ∧
      Resolves i t (if (w.toNat + t.y.toNat) / 256 = w.toNat / 256 then 0 else 1)
        { t with opcode := i.entry.opcode, pc := t.pc + 3#16, ea := BitVec.ofNat 16 (w.toNat + t.y.toNat) })

/-- IZX and IZY: the pointer's bytes are read at the zero-page address and at the next one modulo 256; IZY
adds `Y` after dereferencing and returns 1 exactly when that leaves the pointed page (40 R132, R151, R152; the
wrap of the high byte is decision D13; that the resolver starts with its operand byte read is log 8). -/
def Obligations.PointerModes : Prop :=
  ∀ (i : Instr) (s t : State), fetch s = .next (i, t) →
    (i.entry.mode = .izx → ∃ b lo hi, FetchedByte i b s t ∧
      memRead (BitVec.ofNat 16 ((b.toNat + t.x.toNat) % 256)) t = .next (lo, t) ∧
      memRead (BitVec.ofNat 16 ((b.toNat + t.x.toNat + 1) % 256)) t = .next (hi, t) ∧
      Resolves i t 0 { t with
        opcode := i.entry.opcode, pc := t.pc + 2#16, ea := BitVec.ofNat 16 (lo.toNat + 256 * hi.toNat) }) ∧
    (i.entry.mode = .izy → ∃ b lo hi, FetchedByte i b s t ∧
      memRead (BitVec.ofNat 16 b.toNat) t = .next (lo, t) ∧
      memRead (BitVec.ofNat 16 ((b.toNat + 1) % 256)) t = .next (hi, t) ∧
      Resolves i t (if (lo.toNat + t.y.toNat) / 256 = 0 then 0 else 1) { t with
        opcode := i.entry.opcode, pc := t.pc + 2#16
        ea := BitVec.ofNat 16 (lo.toNat + 256 * hi.toNat + t.y.toNat) })

/-! ## Loads, stores, transfers -/

/-- LDA, LDX and LDY, in every mode: whenever the operand can be read, they complete with the register, `Z`
and `N` from the operand; `t` is the state the operand's one read leaves (41 R170 to R172). -/
def Obligations.LoadsWriteRegisterAndZN : Prop :=
  ∀ (i : Instr) (s : State), OperandReadable i s →
    (i.entry.mnemonic = .lda → ∃ x1 m t, OperandGives i s x1 m t ∧
      exec i s = .next { t with a := m, p := s.p.setZN m, rem := cyclesLeft i x1 0 }) ∧
    (i.entry.mnemonic = .ldx → ∃ x1 m t, OperandGives i s x1 m t ∧
      exec i s = .next { t with x := m, p := s.p.setZN m, rem := cyclesLeft i x1 0 }) ∧
    (i.entry.mnemonic = .ldy → ∃ x1 m t, OperandGives i s x1 m t ∧
      exec i s = .next { t with y := m, p := s.p.setZN m, rem := cyclesLeft i x1 0 })

/-- STA, STX and STY, in every mode: whenever `ea` can be written, they complete with the register written
there, no read before it, no flag changed, no page-cross cycle (41 R173 to R175). -/
def Obligations.StoresWriteRegisterAtEa : Prop :=
  ∀ (i : Instr) (s : State), OperandWritable i s →
    (i.entry.mnemonic = .sta → ∃ x1 s1 t, Resolves i s x1 s1 ∧ memWrite s1.ea s.a s1 = .next t ∧ t.p = s.p ∧
      exec i s = .next { t with rem := i.entry.base - 1 }) ∧
    (i.entry.mnemonic = .stx → ∃ x1 s1 t, Resolves i s x1 s1 ∧ memWrite s1.ea s.x s1 = .next t ∧ t.p = s.p ∧
      exec i s = .next { t with rem := i.entry.base - 1 }) ∧
    (i.entry.mnemonic = .sty → ∃ x1 s1 t, Resolves i s x1 s1 ∧ memWrite s1.ea s.y s1 = .next t ∧ t.p = s.p ∧
      exec i s = .next { t with rem := i.entry.base - 1 })

/-- In the console map a store to program ROM stops with `ReadOnlyViolation(ea)`, and a store to, or a load
from, an address that maps to nothing with `InvalidBusAddress(ea)` (20 R72, R73, 60 R403, R404). -/
def Obligations.ConsoleAccessFaults : Prop :=
  ∀ (i : Instr) (s s1 : State) (x1 : Nat), s.config.bus = .nesNrom → Resolves i s x1 s1 →
    (i.entry.mnemonic = .sta ∨ i.entry.mnemonic = .stx ∨ i.entry.mnemonic = .sty →
      (0x8000 ≤ s1.ea.toNat → exec i s = .fault (.readOnlyViolation .cpu s1.ea)) ∧
      (0x4018 ≤ s1.ea.toNat ∧ s1.ea.toNat < 0x6000 → exec i s = .fault (.invalidBusAddress .cpu s1.ea)) ∧
      (0x6000 ≤ s1.ea.toNat ∧ s1.ea.toNat < 0x8000 ∧ s.config.prgRamPresent = false →
        exec i s = .fault (.invalidBusAddress .cpu s1.ea))) ∧
    (i.entry.mnemonic = .lda ∨ i.entry.mnemonic = .ldx ∨ i.entry.mnemonic = .ldy → i.entry.mode ≠ .imm →
      (0x4018 ≤ s1.ea.toNat ∧ s1.ea.toNat < 0x6000 → exec i s = .fault (.invalidBusAddress .cpu s1.ea)) ∧
      (0x6000 ≤ s1.ea.toNat ∧ s1.ea.toNat < 0x8000 ∧ s.config.prgRamPresent = false →
        exec i s = .fault (.invalidBusAddress .cpu s1.ea)))

/-! ## Arithmetic and logic -/

/-- ADC and SBC, in every mode: the sum of `A`, `m` and the carry, and its four flags, whatever `P.D` holds;
`m` is the operand for ADC and its one's complement for SBC (42 R190, R191). -/
def Obligations.AddAndSubtractWithCarry : Prop :=
  ∀ (i : Instr) (s : State), i.entry.mnemonic = .adc ∨ i.entry.mnemonic = .sbc → OperandReadable i s →
    ∃ x1 q t, OperandGives i s x1 q t ∧ ∃ m r : Byte,
      m = (if i.entry.mnemonic = .sbc then q ^^^ 0xFF#8 else q) ∧
      r.toNat = (s.a.toNat + m.toNat + s.p.c.toNat) % 256 ∧
      exec i s = .next { t with
        a := r
        p := { s.p with
          c := decide (0xFF < s.a.toNat + m.toNat + s.p.c.toNat)
          v := (~~~(s.a ^^^ m) &&& (s.a ^^^ r) &&& 0x80#8) != 0x00#8
          z := r == 0x00#8
          n := r.getLsbD 7 }
        rem := cyclesLeft i x1 0 }

/-- The signed and unsigned views of ADC and SBC (42 R199): `V` is set exactly when the signed sum or
difference is outside -128 to 127; after SBC `C` is set exactly when no borrow occurred, and `A` is the
difference modulo 256. -/
def Obligations.CarryAndOverflowMeanings : Prop :=
  ∀ (i : Instr) (s t u : State) (x1 : Nat) (m : Byte), OperandGives i s x1 m t → exec i s = .next u →
    (i.entry.mnemonic = .adc →
      (u.p.v = true ↔ s.a.toInt + m.toInt + s.p.c.toNat < -128 ∨ 127 < s.a.toInt + m.toInt + s.p.c.toNat) ∧
      (u.p.c = true ↔ 256 ≤ s.a.toNat + m.toNat + s.p.c.toNat) ∧
      u.a = s.a + m + BitVec.ofNat 8 s.p.c.toNat) ∧
    (i.entry.mnemonic = .sbc →
      (u.p.v = true ↔ s.a.toInt - m.toInt - (!s.p.c).toNat < -128 ∨ 127 < s.a.toInt - m.toInt - (!s.p.c).toNat) ∧
      (u.p.c = true ↔ m.toNat + (!s.p.c).toNat ≤ s.a.toNat) ∧
      u.a = s.a - m - BitVec.ofNat 8 (!s.p.c).toNat)

/-- AND, ORA and EOR, in every mode (42 R192 to R194). -/
def Obligations.LogicWritesAAndZN : Prop :=
  ∀ (i : Instr) (s : State), OperandReadable i s →
    (i.entry.mnemonic = .and → ∃ x1 m t, OperandGives i s x1 m t ∧
      exec i s = .next { t with a := s.a &&& m, p := s.p.setZN (s.a &&& m), rem := cyclesLeft i x1 0 }) ∧
    (i.entry.mnemonic = .ora → ∃ x1 m t, OperandGives i s x1 m t ∧
      exec i s = .next { t with a := s.a ||| m, p := s.p.setZN (s.a ||| m), rem := cyclesLeft i x1 0 }) ∧
    (i.entry.mnemonic = .eor → ∃ x1 m t, OperandGives i s x1 m t ∧
      exec i s = .next { t with a := s.a ^^^ m, p := s.p.setZN (s.a ^^^ m), rem := cyclesLeft i x1 0 })

/-- CMP, CPX and CPY, in every mode: three flags, no register. BIT, in both modes: `N` and `V` from the memory
byte, `Z` from the and, no register (42 R195 to R198). -/
def Obligations.ComparesAndBitTest : Prop :=
  ∀ (i : Instr) (s : State), OperandReadable i s →
    (i.entry.mnemonic = .cmp → ∃ x1 m t, OperandGives i s x1 m t ∧
      exec i s = .next { t with
        p := { s.p with c := decide (m.toNat ≤ s.a.toNat), z := s.a - m == 0x00#8, n := (s.a - m).getLsbD 7 }
        rem := cyclesLeft i x1 0 }) ∧
    (i.entry.mnemonic = .cpx → ∃ x1 m t, OperandGives i s x1 m t ∧
      exec i s = .next { t with
        p := { s.p with c := decide (m.toNat ≤ s.x.toNat), z := s.x - m == 0x00#8, n := (s.x - m).getLsbD 7 }
        rem := cyclesLeft i x1 0 }) ∧
    (i.entry.mnemonic = .cpy → ∃ x1 m t, OperandGives i s x1 m t ∧
      exec i s = .next { t with
        p := { s.p with c := decide (m.toNat ≤ s.y.toNat), z := s.y - m == 0x00#8, n := (s.y - m).getLsbD 7 }
        rem := cyclesLeft i x1 0 }) ∧
    (i.entry.mnemonic = .bit → ∃ x1 m t, OperandGives i s x1 m t ∧
      exec i s = .next { t with
        p := { s.p with z := (s.a &&& m) == 0x00#8, n := m.getLsbD 7, v := m.getLsbD 6 }
        rem := cyclesLeft i x1 0 })

/-! ## Shifts, increments, decrements -/

/-- ASL, LSR, ROL and ROR of the accumulator complete in every state, with exactly this effect (43 R210 to
R213). -/
def Obligations.AccumulatorShifts : Prop :=
  ∀ s : State,
    (∃ r : Byte, r.toNat = 2 * s.a.toNat % 256 ∧ exec .aslAcc s = .next { s with
      opcode := 0x0A#8, opv := BitVec.ofNat 16 s.a.toNat, pc := s.pc + 1#16, a := r
      p := { s.p with c := s.a.getLsbD 7, z := r == 0x00#8, n := r.getLsbD 7 }, rem := 1 }) ∧
    (∃ r : Byte, r.toNat = s.a.toNat / 2 ∧ exec .lsrAcc s = .next { s with
      opcode := 0x4A#8, opv := BitVec.ofNat 16 s.a.toNat, pc := s.pc + 1#16, a := r
      p := { s.p with c := s.a.getLsbD 0, z := r == 0x00#8, n := false }, rem := 1 }) ∧
    (∃ r : Byte, r.toNat = (2 * s.a.toNat + s.p.c.toNat) % 256 ∧ exec .rolAcc s = .next { s with
      opcode := 0x2A#8, opv := BitVec.ofNat 16 s.a.toNat, pc := s.pc + 1#16, a := r
      p := { s.p with c := s.a.getLsbD 7, z := r == 0x00#8, n := r.getLsbD 7 }, rem := 1 }) ∧
    (∃ r : Byte, r.toNat = s.a.toNat / 2 + 128 * s.p.c.toNat ∧ exec .rorAcc s = .next { s with
      opcode := 0x6A#8, opv := BitVec.ofNat 16 s.a.toNat, pc := s.pc + 1#16, a := r
      p := { s.p with c := s.a.getLsbD 0, z := r == 0x00#8, n := s.p.c }, rem := 1 })

/-- ASL, LSR, ROL and ROR of memory: one read of `ea`, the flags, one write of `ea`; they complete whenever
the byte can be read and then written (43 R210 to R213, R220). -/
def Obligations.MemoryShifts : Prop :=
  ∀ (i : Instr) (s : State), i.entry.mode ≠ .acc → OperandReadable i s → ModifyWritable i s →
    (i.entry.mnemonic = .asl → ∃ x1 m t u, OperandGives i s x1 m t ∧ ∃ r : Byte, r.toNat = 2 * m.toNat % 256 ∧
      memWrite t.ea r { t with p := { s.p with c := m.getLsbD 7, z := r == 0x00#8, n := r.getLsbD 7 } } = .next u ∧
      exec i s = .next { u with rem := i.entry.base - 1 }) ∧
    (i.entry.mnemonic = .lsr → ∃ x1 m t u, OperandGives i s x1 m t ∧ ∃ r : Byte, r.toNat = m.toNat / 2 ∧
      memWrite t.ea r { t with p := { s.p with c := m.getLsbD 0, z := r == 0x00#8, n := false } } = .next u ∧
      exec i s = .next { u with rem := i.entry.base - 1 }) ∧
    (i.entry.mnemonic = .rol → ∃ x1 m t u, OperandGives i s x1 m t ∧
      ∃ r : Byte, r.toNat = (2 * m.toNat + s.p.c.toNat) % 256 ∧
      memWrite t.ea r { t with p := { s.p with c := m.getLsbD 7, z := r == 0x00#8, n := r.getLsbD 7 } } = .next u ∧
      exec i s = .next { u with rem := i.entry.base - 1 }) ∧
    (i.entry.mnemonic = .ror → ∃ x1 m t u, OperandGives i s x1 m t ∧
      ∃ r : Byte, r.toNat = m.toNat / 2 + 128 * s.p.c.toNat ∧
      memWrite t.ea r { t with p := { s.p with c := m.getLsbD 0, z := r == 0x00#8, n := s.p.c } } = .next u ∧
      exec i s = .next { u with rem := i.entry.base - 1 })

/-- INC and DEC: one read of `ea`, `Z` and `N`, one write of `ea`; they complete whenever the byte can be
read and then written (43 R214, R215, R220). -/
def Obligations.MemoryIncrementAndDecrement : Prop :=
  ∀ (i : Instr) (s : State), OperandReadable i s → ModifyWritable i s →
    (i.entry.mnemonic = .inc → ∃ x1 m t u, OperandGives i s x1 m t ∧
      memWrite t.ea (m + 1#8) { t with p := s.p.setZN (m + 1#8) } = .next u ∧
      exec i s = .next { u with rem := i.entry.base - 1 }) ∧
    (i.entry.mnemonic = .dec → ∃ x1 m t u, OperandGives i s x1 m t ∧
      memWrite t.ea (m - 1#8) { t with p := s.p.setZN (m - 1#8) } = .next u ∧
      exec i s = .next { u with rem := i.entry.base - 1 })

/-- TAX, TAY, TXA, TYA, TSX, TXS, INX, INY, DEX and DEY complete in every state, with exactly this effect
(41 R176 to R181, 43 R216 to R219). -/
def Obligations.RegisterInstructions : Prop :=
  ∀ s : State,
    exec .tax s = .next { s with opcode := 0xAA#8, pc := s.pc + 1#16, x := s.a, p := s.p.setZN s.a, rem := 1 } ∧
    exec .tay s = .next { s with opcode := 0xA8#8, pc := s.pc + 1#16, y := s.a, p := s.p.setZN s.a, rem := 1 } ∧
    exec .txa s = .next { s with opcode := 0x8A#8, pc := s.pc + 1#16, a := s.x, p := s.p.setZN s.x, rem := 1 } ∧
    exec .tya s = .next { s with opcode := 0x98#8, pc := s.pc + 1#16, a := s.y, p := s.p.setZN s.y, rem := 1 } ∧
    exec .tsx s = .next { s with opcode := 0xBA#8, pc := s.pc + 1#16, x := s.sp, p := s.p.setZN s.sp, rem := 1 } ∧
    exec .txs s = .next { s with opcode := 0x9A#8, pc := s.pc + 1#16, sp := s.x, rem := 1 } ∧
    exec .inx s = .next { s with
      opcode := 0xE8#8, pc := s.pc + 1#16, x := s.x + 1#8, p := s.p.setZN (s.x + 1#8), rem := 1 } ∧
    exec .iny s = .next { s with
      opcode := 0xC8#8, pc := s.pc + 1#16, y := s.y + 1#8, p := s.p.setZN (s.y + 1#8), rem := 1 } ∧
    exec .dex s = .next { s with
      opcode := 0xCA#8, pc := s.pc + 1#16, x := s.x - 1#8, p := s.p.setZN (s.x - 1#8), rem := 1 } ∧
    exec .dey s = .next { s with
      opcode := 0x88#8, pc := s.pc + 1#16, y := s.y - 1#8, p := s.p.setZN (s.y - 1#8), rem := 1 }

/-! ## Branches, jumps, subroutines -/

/-- The eight branches complete in every state, on the flag each tests, with the target and the cycles of
`branchAfter` (44 R230 to R238). -/
def Obligations.BranchesTestTheirFlag : Prop :=
  ∀ (s : State) (d : Int),
    exec (.bcc d) s = .next (branchAfter 0x90#8 (!s.p.c) d s) ∧
    exec (.bcs d) s = .next (branchAfter 0xB0#8 s.p.c d s) ∧
    exec (.beq d) s = .next (branchAfter 0xF0#8 s.p.z d s) ∧
    exec (.bne d) s = .next (branchAfter 0xD0#8 (!s.p.z) d s) ∧
    exec (.bmi d) s = .next (branchAfter 0x30#8 s.p.n d s) ∧
    exec (.bpl d) s = .next (branchAfter 0x10#8 (!s.p.n) d s) ∧
    exec (.bvc d) s = .next (branchAfter 0x50#8 (!s.p.v) d s) ∧
    exec (.bvs d) s = .next (branchAfter 0x70#8 s.p.v d s)

/-- JMP: the absolute form completes in every state; the indirect form whenever the two bytes of its pointer
can be read, the high one in the pointer's own page (44 R239, 40 R150). -/
def Obligations.JumpsGoToEa : Prop :=
  ∀ (s : State) (w : Word),
    exec (.jmpAbs w) s = .next { s with opcode := 0x4C#8, ea := w, pc := w, rem := 2 } ∧
    (Readable w s = true → Readable (BitVec.ofNat 16 (w.toNat / 256 * 256 + (w.toNat + 1) % 256)) s = true →
      ∃ lo t hi u, memRead w { s with opcode := 0x6C#8, pc := s.pc + 3#16 } = .next (lo, t) ∧
        memRead (BitVec.ofNat 16 (w.toNat / 256 * 256 + (w.toNat + 1) % 256)) t = .next (hi, u) ∧
        exec (.jmpInd w) s = .next { u with
          ea := BitVec.ofNat 16 (lo.toNat + 256 * hi.toNat)
          pc := BitVec.ofNat 16 (lo.toNat + 256 * hi.toNat), rem := 4 })

/-- JSR and RTS complete in every state, with exactly this effect: JSR pushes the address of its own last
byte, RTS goes one past the pulled address (44 R240, R241; decision D6). -/
def Obligations.CallAndReturn : Prop :=
  ∀ (s : State) (w : Word),
    exec (.jsr w) s = .next { s with
      opcode := 0x20#8, ea := w, pc := w, sp := s.sp - 2#8, rem := 5
      ram := (s.ram.write (0x100 + s.sp.toNat) (hiByte (s.pc + 2#16))).write (0x100 + (s.sp - 1#8).toNat)
        (loByte (s.pc + 2#16)) } ∧
    exec .rts s = .next { s with
      opcode := 0x60#8, sp := s.sp + 2#8, rem := 5
      pc := BitVec.ofNat 16 ((s.ram.read (0x100 + (s.sp + 1#8).toNat)).toNat +
        256 * (s.ram.read (0x100 + (s.sp + 2#8).toNat)).toNat + 1) }

/-! ## Stack, flags, system -/

/-- PHA, PHP, PLA and PLP complete in every state, with exactly this effect (45 R250 to R253; bit 4 of the
byte PHP pushes is decision D4). -/
def Obligations.StackInstructions : Prop :=
  ∀ s : State,
    exec .pha s = .next { s with
      opcode := 0x48#8, pc := s.pc + 1#16, ram := s.ram.write (0x100 + s.sp.toNat) s.a, sp := s.sp - 1#8, rem := 2 } ∧
    exec .php s = .next { s with
      opcode := 0x08#8, pc := s.pc + 1#16, ram := s.ram.write (0x100 + s.sp.toNat) (s.p.pack ||| 0x10#8)
      sp := s.sp - 1#8, rem := 2 } ∧
    (∃ b, b = s.ram.read (0x100 + (s.sp + 1#8).toNat) ∧ exec .pla s = .next { s with
      opcode := 0x68#8, pc := s.pc + 1#16, sp := s.sp + 1#8, a := b, p := s.p.setZN b, rem := 3 }) ∧
    (∃ b, b = s.ram.read (0x100 + (s.sp + 1#8).toNat) ∧ exec .plp s = .next { s with
      opcode := 0x28#8, pc := s.pc + 1#16, sp := s.sp + 1#8, rem := 3
      p := ⟨b.getLsbD 0, b.getLsbD 1, b.getLsbD 2, b.getLsbD 3, b.getLsbD 4, b.getLsbD 6, b.getLsbD 7⟩ })

/-- The seven flag instructions and NOP complete in every state and write the one flag, or none (45 R254 to
R261). -/
def Obligations.FlagInstructions : Prop :=
  ∀ s : State,
    exec .clc s = .next { s with opcode := 0x18#8, pc := s.pc + 1#16, p := { s.p with c := false }, rem := 1 } ∧
    exec .sec s = .next { s with opcode := 0x38#8, pc := s.pc + 1#16, p := { s.p with c := true }, rem := 1 } ∧
    exec .cli s = .next { s with opcode := 0x58#8, pc := s.pc + 1#16, p := { s.p with i := false }, rem := 1 } ∧
    exec .sei s = .next { s with opcode := 0x78#8, pc := s.pc + 1#16, p := { s.p with i := true }, rem := 1 } ∧
    exec .cld s = .next { s with opcode := 0xD8#8, pc := s.pc + 1#16, p := { s.p with d := false }, rem := 1 } ∧
    exec .sed s = .next { s with opcode := 0xF8#8, pc := s.pc + 1#16, p := { s.p with d := true }, rem := 1 } ∧
    exec .clv s = .next { s with opcode := 0xB8#8, pc := s.pc + 1#16, p := { s.p with v := false }, rem := 1 } ∧
    exec .nop s = .next { s with opcode := 0xEA#8, pc := s.pc + 1#16, rem := 1 }

/-- BRK completes in every state: it sets `B`, pushes the address of its opcode plus 2 and the flags with bit
4 set, sets `I`, and goes where the vector at 0xFFFE points, which is plain memory in both bus maps (45 R263;
decisions D4, D5). -/
def Obligations.BrkEntersTheIrqVector : Prop :=
  ∀ s : State, ∃ lo hi, plainByte 0xFFFE#16 s = some lo ∧ plainByte 0xFFFF#16 s = some hi ∧
    exec .brk s = .next { s with
      opcode := 0x00#8, sp := s.sp - 3#8, rem := 6, p := { s.p with b := true, i := true }
      pc := BitVec.ofNat 16 (lo.toNat + 256 * hi.toNat)
      ram := ((s.ram.write (0x100 + s.sp.toNat) (hiByte (s.pc + 2#16))).write (0x100 + (s.sp - 1#8).toNat)
        (loByte (s.pc + 2#16))).write (0x100 + (s.sp - 2#8).toNat) ({ s.p with b := true }.pack ||| 0x10#8) }

/-- RTI completes in every state: all seven flags, then `PC`, from the stack (45 R264; decision D4). -/
def Obligations.RtiRestoresFlagsAndPc : Prop :=
  ∀ s : State, ∃ b, b = s.ram.read (0x100 + (s.sp + 1#8).toNat) ∧ exec .rti s = .next { s with
    opcode := 0x40#8, sp := s.sp + 3#8, rem := 5
    p := ⟨b.getLsbD 0, b.getLsbD 1, b.getLsbD 2, b.getLsbD 3, b.getLsbD 4, b.getLsbD 6, b.getLsbD 7⟩
    pc := BitVec.ofNat 16 ((s.ram.read (0x100 + (s.sp + 2#8).toNat)).toNat +
      256 * (s.ram.read (0x100 + (s.sp + 3#8).toNat)).toNat) }

/-! ## Interrupts -/

/-- NMI and IRQ entry complete in every state: the return address and the flags with bit 4 clear are pushed,
`I` is set, `PC` comes from the vector, the remaining cycles from the configuration, and nothing else changes
(60 R410, R413; decisions D4, D8, D10). -/
def Obligations.InterruptEntry : Prop :=
  ∀ s : State, ∃ m : Memory,
    m = ((s.ram.write (0x100 + s.sp.toNat) (hiByte s.pc)).write (0x100 + (s.sp - 1#8).toNat)
      (loByte s.pc)).write (0x100 + (s.sp - 2#8).toNat) (s.p.pack &&& 0xEF#8) ∧
    (∃ lo hi, plainByte 0xFFFA#16 s = some lo ∧ plainByte 0xFFFB#16 s = some hi ∧
      nmiEntry s = .next { s with
        sp := s.sp - 3#8, ram := m, p := { s.p with i := true }
        pc := BitVec.ofNat 16 (lo.toNat + 256 * hi.toNat), rem := s.config.nmiCycles }) ∧
    (∃ lo hi, plainByte 0xFFFE#16 s = some lo ∧ plainByte 0xFFFF#16 s = some hi ∧
      irqEntry s = .next { s with
        sp := s.sp - 3#8, ram := m, p := { s.p with i := true }
        pc := BitVec.ofNat 16 (lo.toNat + 256 * hi.toNat), rem := s.config.irqCycles })

/-- A return that finds `S` and RAM as the call or entry left them undoes it. RTS after JSR goes to the
instruction after the JSR. RTI resumes at the boundary an NMI or IRQ interrupted, or at a BRK's address plus
2, with the flags as they were, but that `B` takes the pushed bit 4: 0 after NMI and IRQ, 1 after BRK (44
R240, R241, 45 R263, R264, 60 R425). -/
def Obligations.ReturnsUndoCallsAndEntries : Prop :=
  ∀ s t u v : State, StateInv s → u.sp = t.sp → u.ram = t.ram →
    (∀ w, exec (.jsr w) s = .next t → exec .rts u = .next v → v.pc = s.pc + 3#16 ∧ v.sp = s.sp) ∧
    (nmiEntry s = .next t ∨ irqEntry s = .next t → exec .rti u = .next v →
      v.pc = s.pc ∧ v.sp = s.sp ∧ v.p = { s.p with b := false }) ∧
    (exec .brk s = .next t → exec .rti u = .next v →
      v.pc = s.pc + 2#16 ∧ v.sp = s.sp ∧ v.p = { s.p with b := true })

/-- A step that is a system tick, whether the host has no call pending or its next one is the tick (log 1), of a
machine with no fault latched, after its three PPU clocks: while cycles remain the CPU only counts down; at a
boundary a pending NMI is delivered and cleared; else an unmasked IRQ is delivered; an entry's cycles begin to
retire in the same tick; with neither, the instruction at `PC` is fetched and executed (60 R420, R412, R423, 40
R131; decisions D9 to D11). -/
def Obligations.TickRetiresOrDelivers : Prop :=
  ∀ s u : State, Ticks s u → latchedFault s = none →
    (u.rem ≠ 0 → step s = .next { ppuTicks u with rem := u.rem - 1 }) ∧
    (u.rem = 0 → (ppuTicks u).nmi = true →
      ∃ e, nmiEntry { ppuTicks u with nmi := false } = .next e ∧
        (∀ t, cpuClock e = .next t → step s = .next t) ∧
        (0 < u.config.nmiCycles → step s = .next { e with rem := u.config.nmiCycles - 1 })) ∧
    (u.rem = 0 → (ppuTicks u).nmi = false → u.irq = true → u.p.i = false →
      ∃ e, irqEntry (ppuTicks u) = .next e ∧
        (∀ t, cpuClock e = .next t → step s = .next t) ∧
        (0 < u.config.irqCycles → step s = .next { e with rem := u.config.irqCycles - 1 })) ∧
    (RunsInstruction u → ∀ (i : Instr) (f t : State), fetch (ppuTicks u) = .next (i, f) → exec i f = .next t →
      step s = .next t)

/-- A step runs the decoded instruction: where plain memory holds the bytes of a well-formed instruction at
`PC` and the step is a tick (log 1) that delivers no interrupt, the step is `exec` of it in the state after the
three PPU clocks; a fault it raises is latched, and no instruction is refused (60 R420, R401, 40 R134). -/
def Obligations.StepRunsDecodedInstruction : Prop :=
  ∀ (s u : State) (i : Instr), Ticks s u → RunsInstruction u → i.WellFormed = true →
    HoldsBytes u.pc (encode i) u →
    (∀ t, exec i (ppuTicks u) = .next t → step s = .next t) ∧
    (∀ f, exec i (ppuTicks u) = .fault f → ∃ t, step s = .next t ∧ t.cpuFault = some f) ∧
    (∀ e, exec i (ppuTicks u) ≠ .refused e)

/-! ## Frames -/

/-- `A`, `X`, `Y` and `S` are unchanged by every instruction that 10 R20 and R21 do not list as writing them;
an instruction that transfers no control leaves `PC` past its own bytes, modulo 0x10000 (10 R23, R24). -/
def Obligations.RegisterFrame : Prop :=
  ∀ (i : Instr) (s t : State), exec i s = .next t →
    (writesA i.entry.mnemonic i.entry.mode = false → t.a = s.a) ∧ (writesX i.entry.mnemonic = false → t.x = s.x) ∧
    (writesY i.entry.mnemonic = false → t.y = s.y) ∧ (writesS i.entry.mnemonic = false → t.sp = s.sp) ∧
    (transfersControl i.entry.mnemonic = false → t.pc = s.pc + BitVec.ofNat 16 i.entry.mode.length)

/-- Each flag is unchanged by every instruction that the table of 10 R26 does not list as writing it. -/
def Obligations.FlagFrame : Prop :=
  ∀ (i : Instr) (s t : State), exec i s = .next t →
    (writesC i.entry.mnemonic = false → t.p.c = s.p.c) ∧ (writesZN i.entry.mnemonic = false → t.p.z = s.p.z ∧ t.p.n = s.p.n) ∧
    (writesI i.entry.mnemonic = false → t.p.i = s.p.i) ∧ (writesD i.entry.mnemonic = false → t.p.d = s.p.d) ∧
    (writesB i.entry.mnemonic = false → t.p.b = s.p.b) ∧ (writesV i.entry.mnemonic = false → t.p.v = s.p.v)

/-- A form that stores nothing leaves every byte of plain memory as it was, and every PPU memory and register
but those a read of `PPUSTATUS` or `PPUDATA` changes; where its address is no PPU register's, it leaves the
whole PPU (20 R77, R78). -/
def Obligations.FormsThatStoreNothing : Prop :=
  ∀ (i : Instr) (s t : State), exec i s = .next t → storesAtEa i.entry.mnemonic i.entry.mode = false → storesAtStack i.entry.mnemonic = false →
    (∀ addr, plainByte addr t = plainByte addr s) ∧
    t.nt = s.nt ∧ t.pal = s.pal ∧ t.oam = s.oam ∧ t.chr = s.chr ∧ t.ppuctrl = s.ppuctrl ∧
    t.ppumask = s.ppumask ∧ t.oamAddr = s.oamAddr ∧ t.scrollX = s.scrollX ∧ t.scrollY = s.scrollY ∧
    (i.entry.mode ≠ .ind →
      (computesAddress i.entry.mode = true → ∀ x1 s1 k, Resolves i s x1 s1 → route s.config s1.ea ≠ .ppuReg k) →
      ppuPart t = ppuPart s)

/-- A form that stores at `ea` leaves every byte of plain memory that `ea` does not reach; and where `ea` is
no PPU register, the whole PPU (20 R78, 43 R220). -/
def Obligations.FormsThatStoreAtEa : Prop :=
  ∀ (i : Instr) (s s1 t : State) (x1 : Nat), exec i s = .next t → storesAtEa i.entry.mnemonic i.entry.mode = true → Resolves i s x1 s1 →
    (∀ addr, route s.config addr ≠ route s.config s1.ea → plainByte addr t = plainByte addr s) ∧
    ((∀ k, route s.config s1.ea ≠ .ppuReg k) → ppuPart t = ppuPart s)

/-- An instruction that pushes leaves every byte of plain memory but the stack slots it pushes to, from
`0x0100 | S` down with wrapping, and the whole PPU (20 R62, 40 R155, R157). -/
def Obligations.FormsThatStoreOnTheStack : Prop :=
  ∀ (i : Instr) (s t : State), exec i s = .next t → storesAtStack i.entry.mnemonic = true →
    (∀ addr, (∀ k, k < pushCount i.entry.mnemonic → route s.config addr ≠ route s.config (stackAddr (s.sp - BitVec.ofNat 8 k))) →
      plainByte addr t = plainByte addr s) ∧ ppuPart t = ppuPart s

/-- No instruction changes the PPU's counters and its `frameComplete` and `nmi` flags, a fault latch, the
`irq` level, the pixel sink, program ROM, the configuration or the host's pending calls (20 R91, 47 R309, R311,
60 R430, 10 R49); and no draw is taken back (00 R10; the counters of the draws are log 6). -/
def Obligations.InstructionsLeaveTimingAndPorts : Prop :=
  ∀ (i : Instr) (s t : State), exec i s = .next t →
    t.cycle = s.cycle ∧ t.scanline = s.scanline ∧ t.frameComplete = s.frameComplete ∧ t.nmi = s.nmi ∧
    t.cpuFault = s.cpuFault ∧ t.ppuFault = s.ppuFault ∧ t.irq = s.irq ∧ t.sink = s.sink ∧
    t.prgRom = s.prgRom ∧ t.config = s.config ∧ t.host = s.host ∧ t.epoch = s.epoch ∧ s.draws ≤ t.draws

/-! ## The CPU bus -/

/-- `FLAT64K`: every address is RAM with no side effect, a read gives the last byte written, and no
instruction can fault (20 R67). -/
def Obligations.FlatMemoryNeverFaults : Prop :=
  ∀ s : State, StateInv s → s.config.bus = .flat64k →
    (∀ (i : Instr), ∃ t, exec i s = .next t) ∧
    (∀ addr, ∃ b, memRead addr s = .next (b, s)) ∧
    (∀ (addr : Word) (b : Byte), ∃ t, memWrite addr b s = .next t ∧ memRead addr t = .next (b, t) ∧
      ∀ other, other ≠ addr → ∃ c, memRead other s = .next (c, s) ∧ memRead other t = .next (c, t))

/-- `NES_NROM`, reads: RAM four times over, PPU registers every eight bytes, the audio window with a free
value, nothing, cartridge RAM when present, program ROM mirrored (20 R68 to R73; decisions D16, D17, D40). -/
def Obligations.ConsoleReads : Prop :=
  ∀ (s : State) (addr : Word), s.config.bus = .nesNrom →
    (addr.toNat < 0x2000 → memRead addr s = .next (s.ram.read (addr.toNat % 0x800), s)) ∧
    (0x2000 ≤ addr.toNat → addr.toNat < 0x4000 →
      memRead addr s = ppuReadReg (BitVec.ofNat 3 (addr.toNat % 8)) s) ∧
    (0x4000 ≤ addr.toNat → addr.toNat < 0x4018 →
      ∃ b, memRead addr s = .next (b, { s with draws := s.draws + 1 })) ∧
    (0x4018 ≤ addr.toNat → addr.toNat < 0x6000 → memRead addr s = .fault (.invalidBusAddress .cpu addr)) ∧
    (0x6000 ≤ addr.toNat → addr.toNat < 0x8000 → memRead addr s =
      if s.config.prgRamPresent then .next (s.prgRam.read (addr.toNat - 0x6000), s)
      else .fault (.invalidBusAddress .cpu addr)) ∧
    (0x8000 ≤ addr.toNat → memRead addr s = .next (s.prgRom.read ((addr.toNat - 0x8000) % s.config.prgSize), s))

/-- `NES_NROM`, writes (20 R68 to R73; decisions D16, D17). -/
def Obligations.ConsoleWrites : Prop :=
  ∀ (s : State) (addr : Word) (b : Byte), s.config.bus = .nesNrom →
    (addr.toNat < 0x2000 → memWrite addr b s = .next { s with ram := s.ram.write (addr.toNat % 0x800) b }) ∧
    (0x2000 ≤ addr.toNat → addr.toNat < 0x4000 →
      memWrite addr b s = ppuWriteReg (BitVec.ofNat 3 (addr.toNat % 8)) b s) ∧
    (0x4000 ≤ addr.toNat → addr.toNat < 0x4018 → memWrite addr b s = .next s) ∧
    (0x4018 ≤ addr.toNat → addr.toNat < 0x6000 → memWrite addr b s = .fault (.invalidBusAddress .cpu addr)) ∧
    (0x6000 ≤ addr.toNat → addr.toNat < 0x8000 → memWrite addr b s =
      if s.config.prgRamPresent then .next { s with prgRam := s.prgRam.write (addr.toNat - 0x6000) b }
      else .fault (.invalidBusAddress .cpu addr)) ∧
    (0x8000 ≤ addr.toNat → memWrite addr b s = .fault (.readOnlyViolation .cpu addr))

/-- A byte written to plain memory is what every address that reaches the same cell then reads, and every
other address reads as before (20 R90, R69). -/
def Obligations.WriteThenRead : Prop :=
  ∀ (s t : State) (addr other : Word) (b c : Byte), StateInv s → plainByte addr s = some c →
    memWrite addr b s = .next t →
    (route s.config other = route s.config addr → plainByte other t = some b) ∧
    (route s.config other ≠ route s.config addr → plainByte other t = plainByte other s)

/-- `Pack` and `Unpack`: the bit order, and that unpacking and packing a byte sets its bit 5 (10 R31, R32). -/
def Obligations.PackAndUnpack : Prop :=
  (∀ p : Flags, p.pack.toNat = p.n.toNat * 128 + p.v.toNat * 64 + 32 + p.b.toNat * 16 + p.d.toNat * 8 +
    p.i.toNat * 4 + p.z.toNat * 2 + p.c.toNat) ∧
  (∀ b : Byte, Flags.unpack b =
    ⟨b.getLsbD 0, b.getLsbD 1, b.getLsbD 2, b.getLsbD 3, b.getLsbD 4, b.getLsbD 6, b.getLsbD 7⟩) ∧
  (∀ b : Byte, (Flags.unpack b).pack = b ||| 0x20#8) ∧ (∀ p : Flags, Flags.unpack p.pack = p)

/-! ## The PPU's registers and bus -/

/-- Reading `PPUSTATUS`: bit 7 is `vblank` before the read, the other bits are free; `vblank` and `w` are
cleared and nothing else changes but the model's own draw counter (48 R324; decisions D22, D34). -/
def Obligations.StatusReadClearsVblankAndLatch : Prop :=
  ∀ s : State, s.ppuFault = none → ∃ b, ppuReadReg 2 s =
    .next (b, { s with vblank := false, w := false, draws := s.draws + 1 }) ∧ b.getLsbD 7 = s.vblank

/-- `PPUCTRL`, `PPUMASK`, `PPUSTATUS`, `OAMADDR`, `OAMDATA` and `PPUSCROLL`: every write, with exactly this
effect; and reads of `OAMDATA` and of the write-only registers (48 R321 to R323, R325 to R327, R329, R334;
decisions D21, D23, D25 to D27). With a PPU fault latched no access does anything (48 R320; the value of a read
is then free, log 13). -/
def Obligations.PlainPpuRegisters : Prop :=
  ∀ (s : State) (b : Byte), (s.ppuFault = none →
    ppuWriteReg 0 b s = .next { s with ppuctrl := b } ∧ ppuWriteReg 1 b s = .next { s with ppumask := b } ∧
    ppuWriteReg 2 b s = .next s ∧ ppuWriteReg 3 b s = .next { s with oamAddr := b } ∧
    ppuWriteReg 4 b s = .next { s with oam := s.oam.write s.oamAddr.toNat b, oamAddr := s.oamAddr + 1#8 } ∧
    ppuWriteReg 5 b s = .next (if s.w then { s with scrollY := b, w := false } else { s with scrollX := b, w := true }) ∧
    ppuReadReg 4 s = .next (s.oam.read s.oamAddr.toNat, s) ∧
    ∀ i : BitVec 3, i = 0 ∨ i = 1 ∨ i = 3 ∨ i = 5 ∨ i = 6 →
      ∃ c, ppuReadReg i s = .next (c, { s with draws := s.draws + 1 })) ∧
    (s.ppuFault ≠ none → ∀ i : BitVec 3, ppuWriteReg i b s = .next s ∧
      ∃ c, ppuReadReg i s = .next (c, { s with draws := s.draws + 1 }))

/-- `PPUADDR`: the first write sets the high six bits of `v`, the second the low eight, each at once and each
flipping `w` (48 R330; decision D24). -/
def Obligations.AddressWritesSetV : Prop :=
  ∀ (s : State) (b : Byte), s.ppuFault = none →
    ∃ v : PpuAddr, ppuWriteReg 6 b s = .next { s with v := v, w := !s.w } ∧
      (s.w = false → v.toNat = b.toNat % 64 * 256 + s.v.toNat % 256) ∧
      (s.w = true → v.toNat = s.v.toNat / 256 * 256 + b.toNat)

/-- `PPUDATA`: a write stores through the PPU bus, a read returns the palette byte at once and any other byte
one read late; both then advance `v` by 1 or 32 modulo 0x4000 (48 R331 to R333; decisions D24, D43; that a read
whose `v` has just advanced into the palette is immediate is log 20). A write to graphics ROM raises
`ReadOnlyViolation` and does not advance `v`. -/
def Obligations.DataAccessesAdvanceV : Prop :=
  ∀ (s : State) (b : Byte), s.ppuFault = none → ∃ v : PpuAddr,
    v.toNat = (s.v.toNat + if s.ppuctrl.getLsbD 2 then 32 else 1) % 0x4000 ∧
    ppuReadReg 7 s = .next (if 0x3F00 ≤ s.v.toNat then ppuByte s.v s else s.rdbuf,
      { s with rdbuf := ppuByte s.v s, v := v }) ∧
    (0x2000 ≤ s.v.toNat ∨ s.config.chrWritable = true →
      ∃ t, ppuWrite (BitVec.ofNat 16 s.v.toNat) b s = .next t ∧ ppuWriteReg 7 b s = .next { t with v := v }) ∧
    (s.v.toNat < 0x2000 ∧ s.config.chrWritable = false →
      ppuWriteReg 7 b s = .fault (.readOnlyViolation .ppu (BitVec.ofNat 16 s.v.toNat)))

/-- The PPU bus: graphics memory, name-table RAM modulo its size with the mirror at 0x3000, palette RAM every
32 bytes, with the four aliased entries and every other entry a cell of its own (48 R342 to R345, R347; decisions
D28, D41). -/
def Obligations.PpuBusMirrors : Prop :=
  ∀ (s : State) (addr : PpuAddr),
    (addr.toNat < 0x2000 → ppuByte addr s = s.chr.read addr.toNat) ∧
    (0x2000 ≤ addr.toNat → addr.toNat < 0x3000 →
      ppuByte addr s = s.nt.read ((addr.toNat - 0x2000) % s.config.ntSize)) ∧
    (0x3000 ≤ addr.toNat → addr.toNat < 0x3F00 →
      ppuByte addr s = ppuByte (BitVec.ofNat 14 (addr.toNat - 0x1000)) s) ∧
    (0x3F00 ≤ addr.toNat → ppuByte addr s = ppuByte (BitVec.ofNat 14 (0x3F00 + addr.toNat % 32)) s) ∧
    (0x3F00 ≤ addr.toNat → addr.toNat % 16 = 0 ∨ addr.toNat % 16 = 4 ∨ addr.toNat % 16 = 8 ∨ addr.toNat % 16 = 12 →
      ppuByte addr s = s.pal.read (addr.toNat % 16)) ∧
    (0x3F00 ≤ addr.toNat → addr.toNat % 4 ≠ 0 → ppuByte addr s = s.pal.read (addr.toNat % 32))

/-- A write to the PPU bus is read back at every address that reaches the same cell and leaves every other
address, so 0x3F10 and 0x3F00 show each other's writes (48 R341, R347). -/
def Obligations.PpuWriteThenRead : Prop :=
  ∀ (s t : State) (addr other : PpuAddr) (b : Byte), StateInv s →
    ppuWrite (BitVec.ofNat 16 addr.toNat) b s = .next t →
    (ppuRoute s.config other = ppuRoute s.config addr → ppuByte other t = b) ∧
    (ppuRoute s.config other ≠ ppuRoute s.config addr → ppuByte other t = ppuByte other s) ∧
    (ppuRoute s.config 0x3F10#14 = ppuRoute s.config 0x3F00#14)

/-! ## The PPU's clock and pixels -/

/-- One PPU clock: the events of the position it is called in, the pixel of that position when it is in the
visible window, then the advance of the position (341 cycles a line, lines -1 to 260); nothing else changes
(47 R301 to R305; decision D19). -/
def Obligations.PpuClockTick : Prop :=
  ∀ s : State, s.ppuFault = none → 0 ≤ s.scanline + 1 → s.scanline ≤ 260 → s.cycle ≤ 340 →
    ∃ (y : Int) (x : Nat) (done : Bool), ppuClock s = { s with
        vblank := if s.scanline = -1 ∧ s.cycle = 1 then false
          else if s.scanline = 241 ∧ s.cycle = 1 then true else s.vblank
        nmi := s.nmi || (decide (s.scanline = 241 ∧ s.cycle = 1) && s.ppuctrl.getLsbD 7)
        sink := if 0 ≤ s.scanline ∧ s.scanline < 240 ∧ s.cycle < 256 then
            ⟨BitVec.ofNat 8 s.cycle, BitVec.ofInt 8 s.scanline, pixelColour s.cycle s.scanline.toNat s⟩ :: s.sink
          else s.sink
        cycle := x, scanline := y, frameComplete := done } ∧
      (s.cycle < 340 → x = s.cycle + 1 ∧ y = s.scanline ∧ done = s.frameComplete) ∧
      (s.cycle = 340 → s.scanline < 260 → x = 0 ∧ y = s.scanline + 1 ∧ done = s.frameComplete) ∧
      (s.cycle = 340 → s.scanline = 260 → x = 0 ∧ y = -1 ∧ done = true)

/-- The frame cadence, from (-1, 0) with `frameComplete` clear: after n of 341 times 262 clocks the position
is line n / 341 - 1, cycle n mod 341; `frameComplete` appears at the last clock only; `vblank` is clear from
clock 2 and set from clock 82524; 61440 pixels are emitted in raster order (47 R306, R307, 49 R378). -/
def Obligations.FrameCadence : Prop :=
  ∀ s : State, s.ppuFault = none → s.scanline = -1 → s.cycle = 0 → s.frameComplete = false →
    (∀ n, n < 89342 →
      (ppuClocks n s).cycle = n % 341 ∧ (ppuClocks n s).scanline = (n / 341 : Nat) - 1 ∧
      (ppuClocks n s).frameComplete = false ∧
      (2 ≤ n → ((ppuClocks n s).vblank = true ↔ 82524 ≤ n))) ∧
    (ppuClocks 89342 s).cycle = 0 ∧ (ppuClocks 89342 s).scanline = -1 ∧
    (ppuClocks 89342 s).frameComplete = true ∧ (ppuClocks 89342 s).vblank = true ∧
    (ppuClocks 89344 s).vblank = false ∧
    ∃ events : List Pixel, (ppuClocks 89342 s).sink = events ++ s.sink ∧
      events.reverse.map (fun e => (e.x, e.y)) =
        (List.range 61440).map fun k => (BitVec.ofNat 8 (k % 256), BitVec.ofNat 8 (k / 256))

/-- The background pixel: tile from the name table, index from its two bit planes, attribute from the
quadrant of its block, colour from the palette; with rendering gated off by the mask, index 0 and palette
entry 0 (49 R362 to R368; decisions D23, D29). -/
def Obligations.BackgroundPixel : Prop :=
  ∀ (s : State) (x y : Nat), x < 256 → y < 240 →
    ∃ (tile lo hi ab : Byte) (base ci attr : Nat),
      tile = ppuByte (BitVec.ofNat 14 (0x2000 + (y >>> 3) * 32 + (x >>> 3))) s ∧
      base = (if s.ppuctrl.getLsbD 4 then 0x1000 else 0x0000) ∧
      lo = ppuByte (BitVec.ofNat 14 (base + tile.toNat * 16 + (y &&& 7))) s ∧
      hi = ppuByte (BitVec.ofNat 14 (base + tile.toNat * 16 + (y &&& 7) + 8)) s ∧
      ci = (hi.toNat >>> (7 - (x &&& 7)) &&& 1) <<< 1 ||| (lo.toNat >>> (7 - (x &&& 7)) &&& 1) ∧
      ab = ppuByte (BitVec.ofNat 14 (0x23C0 + ((y >>> 3) >>> 2) * 8 + ((x >>> 3) >>> 2))) s ∧
      attr = ab.toNat >>> (((y >>> 3) &&& 2) <<< 1 ||| ((x >>> 3) &&& 2)) &&& 3 ∧
      background x y s =
        if s.config.maskGates = true ∧ s.ppumask.getLsbD 3 = false then (0, ppuByte 0x3F00#14 s)
        else (ci, ppuByte (BitVec.ofNat 14 (0x3F00 + attr * 4 + ci)) s)

/-- A sprite's colour index at a pixel it covers: the row and column in the sprite, mirrored by attribute bits 7
and 6 where the configuration flips, in the two bit planes of its tile (49 R372; decision D30). -/
def Obligations.SpriteColourIndex : Prop :=
  ∀ (s : State) (i x y : Nat), i < 64 → covers i x y s = true →
    ∃ (attr lo hi : Byte) (base col row : Nat),
      attr = s.oam.read (4 * i + 2) ∧ base = (if s.ppuctrl.getLsbD 3 then 0x1000 else 0x0000) ∧
      col = (if s.config.spriteFlip = true ∧ attr.getLsbD 6 = true then 7 - (x - (s.oam.read (4 * i + 3)).toNat)
        else x - (s.oam.read (4 * i + 3)).toNat) ∧
      row = (if s.config.spriteFlip = true ∧ attr.getLsbD 7 = true then 7 - (y - (s.oam.read (4 * i)).toNat)
        else y - (s.oam.read (4 * i)).toNat) ∧
      col ≤ 7 ∧ row ≤ 7 ∧
      lo = ppuByte (BitVec.ofNat 14 (base + (s.oam.read (4 * i + 1)).toNat * 16 + row)) s ∧
      hi = ppuByte (BitVec.ofNat 14 (base + (s.oam.read (4 * i + 1)).toNat * 16 + row + 8)) s ∧
      spriteIndex i x y s = (hi.toNat >>> (7 - col) &&& 1) <<< 1 ||| (lo.toNat >>> (7 - col) &&& 1)

/-- The sprite pixel: a sprite's box is 8 by 8 from its `X` and `Y` bytes; the foreground is the lowest-numbered sprite that covers the pixel and is not transparent there,
none with sprites gated off. The composed pixel is the sprite's colour over the background's, unless there is
no foreground sprite, or its priority bit puts it behind a background pixel that is not transparent (49 R370,
R371, R373 to R376; decisions D23, D30, D31). -/
def Obligations.SpriteChoiceAndComposition : Prop :=
  ∀ (s : State) (x y : Nat), x < 256 → y < 240 →
    (∀ i, i < 64 → (opaqueAt x y s i = true ↔
      (s.oam.read (4 * i + 3)).toNat ≤ x ∧ x < (s.oam.read (4 * i + 3)).toNat + 8 ∧
      (s.oam.read (4 * i)).toNat ≤ y ∧ y < (s.oam.read (4 * i)).toNat + 8 ∧ spriteIndex i x y s ≠ 0)) ∧
    (s.config.maskGates = true ∧ s.ppumask.getLsbD 4 = false → foreground x y s = none) ∧
    (s.config.maskGates = false ∨ s.ppumask.getLsbD 4 = true →
      (∀ i, foreground x y s = some i ↔
        i < 64 ∧ opaqueAt x y s i = true ∧ ∀ j, j < i → opaqueAt x y s j = false) ∧
      (foreground x y s = none ↔ ∀ i, i < 64 → opaqueAt x y s i = false)) ∧
    (foreground x y s = none → pixelColour x y s = (background x y s).2) ∧
    ∀ i, foreground x y s = some i →
      ((s.oam.read (4 * i + 2)).getLsbD 5 = true ∧ (background x y s).1 ≠ 0 →
        pixelColour x y s = (background x y s).2) ∧
      ((s.oam.read (4 * i + 2)).getLsbD 5 = false ∨ (background x y s).1 = 0 →
        pixelColour x y s = ppuByte (BitVec.ofNat 14
          (0x3F10 + ((s.oam.read (4 * i + 2)).toNat &&& 3) * 4 + spriteIndex i x y s)) s)

/-- A pixel depends on nothing but the four video memories, `PPUCTRL[4:3]`, the configuration and, when the
mask gates rendering, `PPUMASK[4:3]` (49 R360). -/
def Obligations.PixelIsAPureFunction : Prop :=
  ∀ (s t : State) (x y : Nat), x < 256 → y < 240 → s.config = t.config →
    s.nt = t.nt → s.pal = t.pal → s.oam = t.oam → s.chr = t.chr →
    s.ppuctrl.getLsbD 4 = t.ppuctrl.getLsbD 4 → s.ppuctrl.getLsbD 3 = t.ppuctrl.getLsbD 3 →
    (s.config.maskGates = true → s.ppumask.getLsbD 3 = t.ppumask.getLsbD 3 ∧
      s.ppumask.getLsbD 4 = t.ppumask.getLsbD 4) →
    pixelColour x y s = pixelColour x y t

/-- The two request flags are sticky: a step that is a system tick (log 1) keeps `frameComplete`, and keeps an NMI
request while an instruction's cycles remain; and it sets the NMI request only with NMI generation enabled (47
R303, R308, R309; decisions D32, D34). -/
def Obligations.RequestFlagsAreSticky : Prop :=
  ∀ s u t : State, Ticks s u → step s = .next t →
    (s.frameComplete = true → t.frameComplete = true) ∧
    (s.nmi = true → s.rem ≠ 0 → t.nmi = true) ∧
    (s.nmi = false → t.nmi = true → s.ppuctrl.getLsbD 7 = true)

/-! ## Reset, faults, host -/

/-- `CPU.PowerUp` and `CPU.Reset` as host strobes. Power-up: every CPU register at the values of 10 R38, `PC`
from the reset vector, no memory written. Warm reset: `S` down by 3, `I` set, the cycles dropped, `PC` from
the reset vector, no memory written; a latched CPU fault survives it (70 R440, R442; decisions D14, D15). -/
def Obligations.CpuResetStrobes : Prop :=
  ∀ (s : State) (rest : List HostCmd), ∃ lo hi,
    plainByte 0xFFFC#16 s = some lo ∧ plainByte 0xFFFD#16 s = some hi ∧
    (s.host = .powerUp :: rest → step s = .next { s with
      cpuFault := none, a := 0x00#8, x := 0x00#8, y := 0x00#8, sp := 0xFD#8
      p := ⟨false, false, true, false, false, false, false⟩
      opcode := 0x00#8, ea := 0x0000#16, opv := 0x0000#16, rem := 0
      pc := BitVec.ofNat 16 (lo.toNat + 256 * hi.toNat), host := rest }) ∧
    (s.host = .warmReset :: rest → s.cpuFault ≠ none → step s = .next { s with host := rest }) ∧
    (s.host = .warmReset :: rest → s.cpuFault = none → step s = .next { s with
      sp := s.sp - 3#8, p := { s.p with i := true }, rem := 0
      pc := BitVec.ofNat 16 (lo.toNat + 256 * hi.toNat), host := rest })

/-- `PPU.Reset` as a host strobe: every PPU register and flag at the values of 10 R51, the video memories
kept (70 R445; decision D20). -/
def Obligations.PpuResetStrobe : Prop :=
  ∀ (s : State) (rest : List HostCmd), s.host = .ppuReset :: rest →
    step s = .next { s with
      scanline := -1, cycle := 0, frameComplete := false, nmi := false, ppuctrl := 0x00#8, ppumask := 0x00#8
      vblank := false, oamAddr := 0x00#8, v := 0x0000#14, w := false, rdbuf := 0x00#8
      scrollX := 0x00#8, scrollY := 0x00#8, ppuFault := none, host := rest }

/-- The reset state has the values 10 R38, R51 and R52 give, and the invariant (10 R38, R51; the values D14
and D20 decide, and the configuration, memories and `PC` of logs 2 to 4). -/
def Obligations.ResetState : Prop :=
  State.reset.sp = 0xFD#8 ∧ State.reset.p = ⟨false, false, true, false, false, false, false⟩ ∧
  State.reset.a = 0x00#8 ∧ State.reset.x = 0x00#8 ∧ State.reset.y = 0x00#8 ∧ State.reset.rem = 0 ∧
  State.reset.cpuFault = none ∧ State.reset.ppuFault = none ∧ State.reset.scanline = -1 ∧
  State.reset.cycle = 0 ∧ State.reset.ppuctrl = 0x00#8 ∧ State.reset.v = 0x0000#14 ∧ State.reset.w = false ∧
  State.reset.nmi = false ∧ State.reset.vblank = false ∧ State.reset.irq = false ∧ StateInv State.reset

/-- A fault is latched and final: a system tick that raises one leaves it in `cpu_fault`, and in `ppu_fault`
too when the PPU's bus raised it, and begins a new epoch of draws; with a fault latched in either unit a
`SystemTick`, a `CPU.Clock` or an interrupt entry the host calls does nothing (that the PPU's latch stops
`CPU.Clock` too is log 17), and a step with no call pending stops with the fault (60 R401, 10 R36, R50, 00 R10; decision D18; that
the step answers the fault, and what else a faulting step leaves, is log 7; the epochs are log 6; the host's calls
are log 1). -/
def Obligations.FaultsAreFinal : Prop :=
  ∀ s : State,
    (∀ f, s.host = [] → latchedFault s = some f → step s = .fault f) ∧
    (∀ cmd rest, cmd = .systemTick ∨ cmd = .cpuClock ∨ cmd = .nmiStrobe → s.host = cmd :: rest →
      latchedFault s ≠ none → step s = .next { s with host := rest }) ∧
    (∀ u f, Ticks s u → latchedFault s = none → systemTick u = .fault f → ∃ t, step s = .next t ∧
      t.cpuFault = some f ∧ (f.bus = .ppu → t.ppuFault = some f) ∧ (f.bus = .cpu → t.ppuFault = none) ∧
      t.epoch = s.epoch + 1 ∧ t.host = u.host ∧ (u.host = [] → step t = .fault f))

/-- A harness state loaded into the flat map and read out again, at the addresses it lists, is itself, with
bit 5 of the flags byte set (60 R437, 10 R30). -/
def Obligations.HarnessRoundTrip : Prop :=
  ∀ (s t : State) (h : Harness) (rest : List HostCmd), StateInv s → s.config.bus = .flat64k →
    (h.ram.map (·.1)).Nodup → s.host = .load h :: rest → step s = .next t →
    t.rem = 0 ∧ harnessRead (h.ram.map (·.1)) t = { h with p := h.p ||| 0x20#8 }

/-- Every step keeps the invariant: counters in range, memories canonical and in their sizes, palette RAM of
28 cells, an admitted configuration (10 R34, R40, R48). -/
def Obligations.StepKeepsInvariant : Prop :=
  ∀ s t : State, StateInv s → step s = .next t → StateInv t

end
end

