-- ==== Sys2Proof/Laws/Memory.lean ====
section
/-! SUPPORT. Sys2Proof/Laws/Memory.lean: the laws of byte memories: a read after a write, and that a write
keeps the canonical form. -/

namespace Sys2Proof

/-- Every entry lies above an index. -/
abbrev Memory.Above (k : Nat) (m : Memory) : Prop := ∀ c ∈ m, k < c.1

theorem Memory.read_above {k : Nat} {m : Memory} (h : Memory.Above k m) : m.read k = Memory.unlisted := by
  induction m with
  | nil => rfl
  | cons c m ih =>
    have hc : k < c.1 := h c (by simp)
    simp only [Memory.read]
    rw [if_neg (by omega)]
    exact ih fun d hd => h d (by simp [hd])

theorem Memory.wf_nil (size : Nat) : Memory.wf size [] := by simp [Memory.wf]

theorem Memory.wf_cons {size : Nat} {c : Host.Cell} {m : Memory} :
    Memory.wf size (c :: m) ↔
      Memory.Above c.1 m ∧ c.1 < size ∧ c.2 ≠ Memory.unlisted ∧ Memory.wf size m := by
  simp only [Memory.wf, List.pairwise_cons, List.forall_mem_cons]
  constructor
  · rintro ⟨⟨h1, h2⟩, ⟨h3, h4⟩, h5⟩
    exact ⟨h1, h3, h4, h2, h5⟩
  · rintro ⟨h1, h3, h4, h2, h5⟩
    exact ⟨⟨h1, h2⟩, ⟨h3, h4⟩, h5⟩

theorem Memory.Above.write {j k : Nat} {b : Byte} {m : Memory} (hm : Memory.Above j m) (hk : j < k) :
    Memory.Above j (m.write k b) := by
  induction m with
  | nil =>
    intro c hc
    simp only [Memory.write] at hc
    split at hc
    · simp at hc
    · simp at hc; subst hc; exact hk
  | cons c m ih =>
    have hc : j < c.1 := hm c (by simp)
    have hm' : Memory.Above j m := fun d hd => hm d (by simp [hd])
    intro d hd
    simp only [Memory.write] at hd
    split at hd
    · split at hd
      · exact hm d hd
      · rcases List.mem_cons.1 hd with rfl | hd
        · exact hk
        · exact hm d hd
    · split at hd
      · split at hd
        · exact hm' d hd
        · rcases List.mem_cons.1 hd with rfl | hd
          · exact hk
          · exact hm' d hd
      · rcases List.mem_cons.1 hd with rfl | hd
        · exact hc
        · exact ih hm' d hd

/-- A write within the size keeps the canonical form. -/
theorem Memory.wf.write {size k : Nat} {m : Memory} (hm : Memory.wf size m) (hk : k < size) (b : Byte) :
    Memory.wf size (m.write k b) := by
  induction m with
  | nil =>
    simp only [Memory.write]
    split
    · exact Memory.wf_nil size
    · rw [Memory.wf_cons]
      exact ⟨by simp, hk, ‹_›, Memory.wf_nil size⟩
  | cons c m ih =>
    obtain ⟨ha, hs, hu, hm'⟩ := Memory.wf_cons.1 hm
    simp only [Memory.write]
    split
    · rename_i hkc
      split
      · exact hm
      · rw [Memory.wf_cons]
        refine ⟨fun d hd => ?_, hk, ‹_›, hm⟩
        rcases List.mem_cons.1 hd with rfl | hd
        · exact hkc
        · exact Nat.lt_trans hkc (ha d hd)
    · rename_i hkc
      split
      · rename_i hkeq
        split
        · exact hm'
        · rw [Memory.wf_cons]
          exact ⟨hkeq ▸ ha, hk, ‹_›, hm'⟩
      · rename_i hkne
        rw [Memory.wf_cons]
        exact ⟨ha.write (by omega), hs, hu, ih hm'⟩

/-- A write leaves entries satisfying what every old entry and the written index satisfy. -/
theorem Memory.forall_write {k : Nat} {b : Byte} {m : Memory} {P : Nat → Prop} (hm : ∀ c ∈ m, P c.1)
    (hk : P k) : ∀ c ∈ m.write k b, P c.1 := by
  induction m with
  | nil =>
    intro c hc
    simp only [Memory.write] at hc
    split at hc
    · simp at hc
    · simp at hc; subst hc; exact hk
  | cons c m ih =>
    have hm' : ∀ d ∈ m, P d.1 := fun d hd => hm d (by simp [hd])
    intro d hd
    simp only [Memory.write] at hd
    split at hd
    · split at hd
      · exact hm d hd
      · rcases List.mem_cons.1 hd with rfl | hd
        · exact hk
        · exact hm d hd
    · split at hd
      · split at hd
        · exact hm' d hd
        · rcases List.mem_cons.1 hd with rfl | hd
          · exact hk
          · exact hm' d hd
      · rcases List.mem_cons.1 hd with rfl | hd
        · exact hm _ (by simp)
        · exact ih hm' d hd

/-- A read of the index written gives the byte written. -/
theorem Memory.read_write_same {size k : Nat} {m : Memory} (hm : Memory.wf size m) (b : Byte) :
    (m.write k b).read k = b := by
  induction m with
  | nil =>
    simp only [Memory.write]
    split
    · exact (Eq.symm ‹_›)
    · simp [Memory.read]
  | cons c m ih =>
    obtain ⟨ha, -, -, hm'⟩ := Memory.wf_cons.1 hm
    simp only [Memory.write]
    split
    · rename_i hkc
      split
      · rw [Memory.read_above, ‹b = _›]
        intro d hd
        rcases List.mem_cons.1 hd with rfl | hd
        · exact hkc
        · exact Nat.lt_trans hkc (ha d hd)
      · simp [Memory.read]
    · split
      · rename_i hkeq
        split
        · rw [Memory.read_above (hkeq ▸ ha), ‹b = _›]
        · simp [Memory.read]
      · rename_i hkne
        simp only [Memory.read]
        rw [if_neg (by omega)]
        exact ih hm'

/-- A read of another index gives what it gave before. -/
theorem Memory.read_write_other {k j : Nat} {m : Memory} (b : Byte) (hne : j ≠ k) :
    (m.write k b).read j = m.read j := by
  induction m with
  | nil =>
    simp only [Memory.write]
    split
    · rfl
    · simp [Memory.read, Ne.symm hne]
  | cons c m ih =>
    simp only [Memory.write]
    split
    · split
      · rfl
      · simp [Memory.read, Ne.symm hne]
    · split
      · rename_i hkeq
        split
        · simp only [Memory.read]
          rw [if_neg (by omega)]
        · simp only [Memory.read]
          rw [if_neg (by omega), if_neg (by omega)]
      · simp only [Memory.read]
        split
        · rfl
        · exact ih

end Sys2Proof
end

