-- ==== Sys2Proof/Laws/Res.lean ====
section
/-! SUPPORT. Sys2Proof/Laws/Res.lean: how operations compose. -/

namespace Sys2Proof.Machine

variable {α β γ : Type}

@[simp] theorem andThen_next (a : α) (f : α → Res β) : andThen (.next a) f = f a := rfl

@[simp] theorem andThen_fault (e : Fault) (f : α → Res β) : andThen (.fault e) f = .fault e := rfl

@[simp] theorem andThen_refused (e : Refusal) (f : α → Res β) : andThen (.refused e) f = .refused e := rfl

theorem andThen_assoc (r : Res α) (f : α → Res β) (g : β → Res γ) :
    andThen (andThen r f) g = andThen r fun a => andThen (f a) g := by
  cases r <;> rfl

/-- A composition answers next exactly when both parts do. -/
theorem andThen_eq_next {r : Res α} {f : α → Res β} {b : β} :
    andThen r f = .next b ↔ ∃ a, r = .next a ∧ f a = .next b := by
  cases r <;> simp

end Sys2Proof.Machine
end

