-- ==== Sys2Proof/Laws/Bus.lean ====
section
/-! SUPPORT. Sys2Proof/Laws/Bus.lean: what the bus primitives can do: one lemma for each shared operation. -/

namespace Sys2Proof.Machine

/-! ## Zero page and the stack page are RAM in both bus maps -/

theorem stackAddr_toNat (sp : Byte) : (stackAddr sp).toNat = 0x100 + sp.toNat := by
  have h := sp.isLt
  have e := Nat.two_pow_add_eq_or_of_lt (i := 8) (b := sp.toNat) h 1
  simp only [stackAddr, BitVec.toNat_or, BitVec.toNat_setWidth, BitVec.toNat_ofNat]
  rw [Nat.mod_eq_of_lt (a := sp.toNat) (by omega)]
  simpa using e.symm

theorem route_low {c : Config} {addr : Word} (h : addr.toNat < 0x0800) : route c addr = .ram addr.toNat := by
  cases hb : c.bus
  · simp [route, hb]
  · simp only [route, hb, nromRoute]
    rw [if_pos (by omega), Nat.mod_eq_of_lt h]

theorem route_stack (c : Config) (sp : Byte) : route c (stackAddr sp) = .ram (0x100 + sp.toNat) := by
  have h := sp.isLt
  rw [route_low (by rw [stackAddr_toNat]; omega), stackAddr_toNat]

theorem zeroPage_toNat (b : Byte) : (b.setWidth 16 : Word).toNat = b.toNat := by
  have h := b.isLt
  simp only [BitVec.toNat_setWidth]
  exact Nat.mod_eq_of_lt (by omega)

theorem route_zeroPage (c : Config) (b : Byte) : route c (b.setWidth 16) = .ram b.toNat := by
  have h := b.isLt
  rw [route_low (by rw [zeroPage_toNat]; omega), zeroPage_toNat]

theorem memRead_ram {addr : Word} {s : State} {i : Nat} (h : route s.config addr = .ram i) :
    memRead addr s = .next (s.ram.read i, s) := by simp [memRead, h]

theorem memWrite_ram {addr : Word} {s : State} {i : Nat} (h : route s.config addr = .ram i) (b : Byte) :
    memWrite addr b s = .next { s with ram := s.ram.write i b } := by simp [memWrite, h]

/-! ## The stack primitives and the pointers of the zero page, in closed form -/

theorem push_eq (b : Byte) (s : State) :
    push b s = .next { s with ram := s.ram.write (0x100 + s.sp.toNat) b, sp := s.sp - 1#8 } := by
  simp [push, memWrite_ram (route_stack s.config s.sp)]

theorem pull_eq (s : State) :
    pull s = .next (s.ram.read (0x100 + (s.sp + 1#8).toNat), { s with sp := s.sp + 1#8 }) := by
  simp [pull, memRead, route_stack]

theorem push16_eq (w : Word) (s : State) :
    push16 w s = .next { s with
      ram := (s.ram.write (0x100 + s.sp.toNat) (hiByte w)).write (0x100 + (s.sp - 1#8).toNat) (loByte w)
      sp := s.sp - 1#8 - 1#8 } := by
  simp [push16, push_eq]

theorem pull16_eq (s : State) :
    pull16 s = .next (mkWord (s.ram.read (0x100 + (s.sp + 1#8).toNat))
      (s.ram.read (0x100 + (s.sp + 1#8 + 1#8).toNat)), { s with sp := s.sp + 1#8 + 1#8 }) := by
  simp [pull16, pull_eq]

theorem zpPointer_eq (zp : Byte) (s : State) :
    zpPointer zp s = .next (mkWord (s.ram.read zp.toNat) (s.ram.read (zp + 1#8).toNat), s) := by
  simp [zpPointer, memRead, route_zeroPage]

/-! ## Plain memory -/

theorem memRead_plain {addr : Word} {s : State} {b : Byte} (h : plainByte addr s = some b) :
    memRead addr s = .next (b, s) := by
  unfold plainByte at h
  unfold memRead
  split at h <;> simp_all

theorem read16_plain {addr : Word} {s : State} {lo hi : Byte} (hlo : plainByte addr s = some lo)
    (hhi : plainByte (addr + 1#16) s = some hi) : read16 addr s = .next (mkWord lo hi, s) := by
  simp [read16, memRead_plain hlo, memRead_plain hhi]

/-- The upper half of the CPU space is plain memory in both bus maps: RAM or program ROM (20 R67, R72). -/
theorem route_high {c : Config} {addr : Word} (h : 0x8000 ≤ addr.toNat) :
    route c addr = match c.bus with
      | .flat64k => .ram addr.toNat
      | .nesNrom => .prgRom ((addr.toNat - 0x8000) % c.prgSize) := by
  cases hb : c.bus
  · simp [route, hb]
  · simp only [route, hb, nromRoute]
    rw [if_neg (by omega), if_neg (by omega), if_neg (by omega), if_neg (by omega), if_neg (by omega)]

/-- A byte of the upper half is not the stack's: a stack write leaves it. -/
theorem plainByte_high_ram_write {addr : Word} {s : State} {k : Nat} (h : 0x8000 ≤ addr.toNat)
    (hk : k < 0x8000) (b : Byte) :
    plainByte addr { s with ram := s.ram.write k b } = plainByte addr s := by
  cases hb : s.config.bus
  · simp only [plainByte, route, hb]
    rw [Memory.read_write_other b (by omega)]
  · simp [plainByte, route_high h, hb]

theorem plainByte_high_isSome {addr : Word} (s : State) (h : 0x8000 ≤ addr.toNat) :
    ∃ b, plainByte addr s = some b := by
  cases hb : s.config.bus <;> simp [plainByte, route_high h, hb]

/-! ## What a read can do -/

/-- A read changes nothing but the free-value counter and the PPU's `vblank`, `w`, `rdbuf` and `v` (20
R77). -/
def AfterRead (s t : State) : Prop :=
  t = { s with draws := t.draws, vblank := t.vblank, w := t.w, rdbuf := t.rdbuf, v := t.v }

theorem AfterRead.refl (s : State) : AfterRead s s := rfl

theorem AfterRead.trans {s t u : State} (h : AfterRead s t) (h' : AfterRead t u) : AfterRead s u := by
  unfold AfterRead at *
  rw [h'] ; rw [h]

theorem ppuReadReg_afterRead {i : BitVec 3} {s t : State} {b : Byte} (h : ppuReadReg i s = .next (b, t)) :
    AfterRead s t := by
  unfold ppuReadReg at h
  split at h
  · simp only [countDraw, Host.Outcome.next.injEq, Prod.mk.injEq] at h
    rw [← h.2]; rfl
  · split at h
    · simp only [readStatus, countDraw, Host.Outcome.next.injEq, Prod.mk.injEq] at h
      rw [← h.2]; rfl
    · simp only [readOamData, Host.Outcome.next.injEq, Prod.mk.injEq] at h
      rw [← h.2]; rfl
    · simp only [readPpuData, andThen_eq_next, Host.Outcome.next.injEq, Prod.mk.injEq] at h
      obtain ⟨d, -, -, h⟩ := h
      rw [← h]; rfl
    · simp only [countDraw, Host.Outcome.next.injEq, Prod.mk.injEq] at h
      rw [← h.2]; rfl

theorem memRead_afterRead {addr : Word} {s t : State} {b : Byte} (h : memRead addr s = .next (b, t)) :
    AfterRead s t := by
  unfold memRead at h
  split at h
  case h_4 => exact ppuReadReg_afterRead h
  case h_6 => simp at h
  all_goals
    simp only [Host.Outcome.next.injEq, Prod.mk.injEq, countDraw] at h
    rw [← h.2]; rfl

theorem ppuByte_of_lt {addr : Word} {s : State} (h : addr.toNat ≤ 0x3FFF) :
    ppuRead addr s = .next (ppuByte (addr.setWidth 14) s) := by simp [ppuRead, h]

/-- `PPUDATA`'s address is 14 bits wide, so it always reaches a range (48 R346). -/
theorem v_in_range (v : PpuAddr) : (v.setWidth 16 : Word).toNat ≤ 0x3FFF := by
  have h := v.isLt
  simp only [BitVec.toNat_setWidth]
  rw [Nat.mod_eq_of_lt (by omega)]
  omega

theorem v_round_trip (v : PpuAddr) : (v.setWidth 16 : Word).setWidth 14 = v := by
  simp

theorem readPpuData_eq (s : State) :
    readPpuData s = .next (if 0x3F00 ≤ s.v.toNat then ppuByte s.v s else s.rdbuf,
      { s with rdbuf := ppuByte s.v s, v := s.v + ppuInc s }) := by
  simp only [readPpuData, ppuByte_of_lt (v_in_range s.v), v_round_trip, andThen_next]

theorem ppuReadReg_next (i : BitVec 3) (s : State) : ∃ b t, ppuReadReg i s = .next (b, t) := by
  unfold ppuReadReg
  split
  · exact ⟨_, _, rfl⟩
  split
  · exact ⟨_, _, rfl⟩
  · exact ⟨_, _, rfl⟩
  · exact ⟨_, _, readPpuData_eq s⟩
  · exact ⟨_, _, rfl⟩

/-- A readable address is read. -/
theorem memRead_of_readable {addr : Word} {s : State} (h : Readable addr s = true) :
    ∃ b t, memRead addr s = .next (b, t) := by
  unfold Readable at h
  unfold memRead
  cases hr : route s.config addr <;> simp_all [ppuReadReg_next]

/-- Whether an address can be read depends on the configuration only. -/
theorem readable_congr {addr : Word} {s t : State} (hc : t.config = s.config) :
    Readable addr t = Readable addr s := by
  unfold Readable
  rw [hc]

/-! ## What a write can do -/

/-- A write changes nothing but RAM, cartridge RAM and the PPU's registers and memories (20 R77). -/
def AfterWrite (s t : State) : Prop :=
  t = { s with
    ram := t.ram, prgRam := t.prgRam, ppuctrl := t.ppuctrl, ppumask := t.ppumask, oamAddr := t.oamAddr
    oam := t.oam, scrollX := t.scrollX, scrollY := t.scrollY, w := t.w, v := t.v, nt := t.nt, pal := t.pal
    chr := t.chr }

theorem AfterWrite.refl (s : State) : AfterWrite s s := rfl

theorem ppuWrite_afterWrite {addr : Word} {b : Byte} {s t : State} (h : ppuWrite addr b s = .next t) :
    t = { s with chr := t.chr, nt := t.nt, pal := t.pal } := by
  unfold ppuWrite at h
  split at h
  · split at h
    · split at h
      · simp only [Host.Outcome.next.injEq] at h; rw [← h]
      · simp at h
    · simp only [Host.Outcome.next.injEq] at h; rw [← h]
    · simp only [Host.Outcome.next.injEq] at h; rw [← h]
  · simp at h

theorem ppuWriteReg_afterWrite {i : BitVec 3} {b : Byte} {s t : State} (h : ppuWriteReg i b s = .next t) :
    AfterWrite s t ∧ t.ram = s.ram ∧ t.prgRam = s.prgRam := by
  unfold ppuWriteReg at h
  split at h
  · simp only [Host.Outcome.next.injEq] at h; subst h; exact ⟨.refl s, rfl, rfl⟩
  · split at h
    case _ => simp only [Host.Outcome.next.injEq] at h; subst h; exact ⟨rfl, rfl, rfl⟩
    case _ => simp only [Host.Outcome.next.injEq] at h; subst h; exact ⟨rfl, rfl, rfl⟩
    case _ => simp only [Host.Outcome.next.injEq] at h; subst h; exact ⟨rfl, rfl, rfl⟩
    case _ => simp only [writeOamData, Host.Outcome.next.injEq] at h; subst h; exact ⟨rfl, rfl, rfl⟩
    case _ =>
      simp only [writeScroll, Host.Outcome.next.injEq] at h
      subst h
      split <;> exact ⟨rfl, rfl, rfl⟩
    case _ =>
      simp only [writePpuAddr, Host.Outcome.next.injEq] at h
      subst h
      split <;> exact ⟨rfl, rfl, rfl⟩
    case _ =>
      simp only [writePpuData, andThen_eq_next, Host.Outcome.next.injEq] at h
      obtain ⟨u, hu, h⟩ := h
      have e := ppuWrite_afterWrite hu
      rw [e] at h
      subst h
      exact ⟨rfl, rfl, rfl⟩
    case _ => simp only [Host.Outcome.next.injEq] at h; subst h; exact ⟨.refl s, rfl, rfl⟩

theorem memWrite_afterWrite {addr : Word} {b : Byte} {s t : State} (h : memWrite addr b s = .next t) :
    AfterWrite s t := by
  unfold memWrite at h
  split at h
  · simp only [Host.Outcome.next.injEq] at h; subst h; rfl
  · simp only [Host.Outcome.next.injEq] at h; subst h; rfl
  · simp at h
  · exact (ppuWriteReg_afterWrite h).1
  · simp only [Host.Outcome.next.injEq] at h; subst h; rfl
  · simp at h

theorem ppuWrite_of_writable {b : Byte} {s : State} (h : 0x2000 ≤ s.v.toNat ∨ s.config.chrWritable = true) :
    ∃ t, ppuWrite (s.v.setWidth 16) b s = .next t := by
  unfold ppuWrite
  rw [if_pos (v_in_range s.v), v_round_trip]
  unfold ppuRoute
  rcases h with h | h
  · rw [if_neg (by omega)]
    split <;> rename_i hr
    · split at hr
      · simp at hr
      · split at hr <;> simp at hr
    · exact ⟨_, rfl⟩
    · exact ⟨_, rfl⟩
  · split
    · rw [if_pos h]; exact ⟨_, rfl⟩
    · exact ⟨_, rfl⟩
    · exact ⟨_, rfl⟩

/-- A read of an address that is no PPU register's leaves the whole PPU. -/
theorem memRead_ppuPart {addr : Word} {s t : State} {b : Byte} (h : memRead addr s = .next (b, t))
    (hr : ∀ k, route s.config addr ≠ .ppuReg k) : ppuPart t = ppuPart s := by
  unfold memRead at h
  split at h
  case h_4 k hk => exact absurd hk (hr k)
  case h_6 => simp at h
  all_goals
    cases h
    rfl

/-- A write to an address that is no PPU register's leaves the whole PPU. -/
theorem memWrite_ppuPart {addr : Word} {b : Byte} {s t : State} (h : memWrite addr b s = .next t)
    (hr : ∀ k, route s.config addr ≠ .ppuReg k) : ppuPart t = ppuPart s := by
  unfold memWrite at h
  split at h
  case h_4 k hk => exact absurd hk (hr k)
  case h_3 => simp at h
  case h_6 => simp at h
  all_goals
    cases h
    rfl

/-- A write leaves every byte of plain memory that its address does not reach. -/
theorem memWrite_plainByte {addr other : Word} {b : Byte} {s t : State} (h : memWrite addr b s = .next t)
    (hne : route s.config other ≠ route s.config addr) : plainByte other t = plainByte other s := by
  have hc : t.config = s.config := by
    have e := memWrite_afterWrite h
    rw [AfterWrite] at e
    rw [e]
  unfold memWrite at h
  unfold plainByte
  rw [hc]
  split at h
  · rename_i k hk
    cases h
    rw [hk] at hne
    split <;> try rfl
    rename_i j hj
    rw [hj] at hne
    simp only [ne_eq, Place.ram.injEq] at hne
    rw [Memory.read_write_other b hne]
  · rename_i k hk
    cases h
    rw [hk] at hne
    split <;> try rfl
    rename_i j hj
    rw [hj] at hne
    simp only [ne_eq, Place.prgRam.injEq] at hne
    rw [Memory.read_write_other b hne]
  · simp at h
  · obtain ⟨e, h1, h2⟩ := ppuWriteReg_afterWrite h
    have h3 : t.prgRom = s.prgRom := by
      rw [AfterWrite] at e
      rw [e]
    rw [h1, h2, h3]
  · cases h
    rfl
  · simp at h

/-- A writable address is written. -/
theorem memWrite_of_writable {addr : Word} {s : State} (h : Writable addr s = true) (b : Byte) :
    ∃ t, memWrite addr b s = .next t := by
  unfold Writable at h
  unfold memWrite
  split at h
  · simp at h
  · simp at h
  · rename_i i hr
    rw [hr]
    dsimp only
    unfold ppuWriteReg
    split
    · exact ⟨_, rfl⟩
    · rename_i hf
      split
      case _ => exact ⟨_, rfl⟩
      case _ => exact ⟨_, rfl⟩
      case _ => exact ⟨_, rfl⟩
      case _ => exact ⟨_, rfl⟩
      case _ => exact ⟨_, rfl⟩
      case _ => exact ⟨_, rfl⟩
      case _ hi =>
        have hi7 : i = 7#3 := BitVec.eq_of_toNat_eq hi
        have hv : 0x2000 ≤ s.v.toNat ∨ s.config.chrWritable = true := by
          simpa [hi7, hf] using h
        obtain ⟨t, ht⟩ := ppuWrite_of_writable (b := b) hv
        exact ⟨{ t with v := t.v + ppuInc t }, by simp [writePpuData, ht]⟩
      case _ => exact ⟨_, rfl⟩
  · rename_i h1 h2 h3
    split
    · exact ⟨_, rfl⟩
    · exact ⟨_, rfl⟩
    · exact absurd ‹_› (h2 _)
    · exact absurd ‹_› (h3 _)
    · exact ⟨_, rfl⟩
    · exact absurd ‹_› h1

end Sys2Proof.Machine
end

