-- ==== Sys2Proof/Laws/Dispatch.lean ====
section
/-! SUPPORT. Sys2Proof/Laws/Dispatch.lean: every meaning is the dispatch of its table entry; each resolver in
closed form; what a resolver, an operand read and a result write can do. -/

namespace Sys2Proof.Machine

/-- Every arm of `exec` is the dispatch its table entry gives. -/
theorem exec_eq_dispatchEntry (i : Instr) (s : State) : exec i s = dispatchEntry i s := by
  cases i <;> rfl

theorem exec_eq (i : Instr) (s : State) :
    exec i s = andThen (resolve i (begun i s)) fun r =>
      andThen (execute i.entry.mnemonic i.entry.mode r.2) fun q =>
        .next (finishDispatch i.entry.base i.entry.extra r.1 q.1 q.2) :=
  exec_eq_dispatchEntry i s

/-- A dispatch once its resolver's answer is known. -/
theorem exec_of_resolves {i : Instr} {s s1 : State} {x1 : Nat} (h : Resolves i s x1 s1) :
    exec i s = andThen (execute i.entry.mnemonic i.entry.mode s1) fun q =>
      .next (finishDispatch i.entry.base i.entry.extra x1 q.1 q.2) := by
  rw [exec_eq, show resolve i (begun i s) = .next (x1, s1) from h, andThen_next]

/-- What an `exec` that completes went through. -/
theorem exec_next {i : Instr} {s t : State} (h : exec i s = .next t) :
    ∃ x1 s1 x2 s2, Resolves i s x1 s1 ∧ execute i.entry.mnemonic i.entry.mode s1 = .next (x2, s2) ∧
      t = finishDispatch i.entry.base i.entry.extra x1 x2 s2 := by
  rw [exec_eq, andThen_eq_next] at h
  obtain ⟨⟨x1, s1⟩, h1, h⟩ := h
  rw [andThen_eq_next] at h
  obtain ⟨⟨x2, s2⟩, h2, h⟩ := h
  exact ⟨x1, s1, x2, s2, h1, h2, (Host.Outcome.next.inj h).symm⟩

theorem Resolves.unique {i : Instr} {s s1 s2 : State} {x y : Nat} (h : Resolves i s x s1)
    (h' : Resolves i s y s2) : x = y ∧ s1 = s2 := by
  have e := h.symm.trans h'
  simpa using e

/-! ## The fields of the frame of a dispatch -/

section Frame
variable (op : Byte) (base x1 x2 : Nat) (extra : Extra) (s : State)

@[simp] theorem finishDispatch_eq : finishDispatch base extra x1 x2 s =
    { s with rem := base + (if extra = .page then x1 else 0) + x2 - 1 } := rfl

theorem begun_eq (i : Instr) : begun i s = { s with opcode := i.entry.opcode, pc := s.pc + 1#16 } := rfl

end Frame

/-! ## Words -/

theorem mkWord_toNat (lo hi : Byte) : (mkWord lo hi).toNat = lo.toNat + 256 * hi.toNat := by
  have hl := lo.isLt
  have hh := hi.isLt
  simp only [mkWord, BitVec.toNat_or, BitVec.toNat_shiftLeft, BitVec.toNat_setWidth]
  rw [Nat.mod_eq_of_lt (a := lo.toNat) (by omega), Nat.mod_eq_of_lt (a := hi.toNat) (by omega),
    Nat.shiftLeft_eq, Nat.mod_eq_of_lt (by omega)]
  have e := Nat.two_pow_add_eq_or_of_lt (i := 8) (b := lo.toNat) hl hi.toNat
  rw [Nat.mul_comm hi.toNat, ← e]
  omega

theorem mkWord_eq (lo hi : Byte) : mkWord lo hi = BitVec.ofNat 16 (lo.toNat + 256 * hi.toNat) := by
  rw [← mkWord_toNat, BitVec.ofNat_toNat, BitVec.setWidth_eq]

theorem hiByte_toNat (w : Word) : (hiByte w).toNat = w.toNat / 256 := by
  have h := w.isLt
  simp only [hiByte, BitVec.toNat_setWidth, BitVec.toNat_ushiftRight, Nat.shiftRight_eq_div_pow]
  omega

theorem loByte_toNat (w : Word) : (loByte w).toNat = w.toNat % 256 := by
  simp [loByte, BitVec.toNat_setWidth]

theorem mkWord_loByte_hiByte (w : Word) : mkWord (loByte w) (hiByte w) = w := by
  apply BitVec.eq_of_toNat_eq
  rw [mkWord_toNat, loByte_toNat, hiByte_toNat]
  omega

theorem loByte_mkWord (lo hi : Byte) : loByte (mkWord lo hi) = lo := by
  apply BitVec.eq_of_toNat_eq
  have h := lo.isLt
  rw [loByte_toNat, mkWord_toNat]
  omega

theorem hiByte_mkWord (lo hi : Byte) : hiByte (mkWord lo hi) = hi := by
  apply BitVec.eq_of_toNat_eq
  have h := lo.isLt
  rw [hiByte_toNat, mkWord_toNat]
  omega

theorem pageCross_eq (a b : Word) :
    pageCross a b = if a.toNat / 256 = b.toNat / 256 then 0 else 1 := by
  unfold pageCross
  congr 1
  rw [← BitVec.toNat_inj, hiByte_toNat, hiByte_toNat]

/-! ## The resolvers that read nothing but zero page, in closed form -/

theorem resolveIzx_eq (zp : Byte) (s : State) :
    resolveIzx zp s = .next (0, { s with
      pc := s.pc + 1#16
      ea := mkWord (s.ram.read (zp + s.x).toNat) (s.ram.read (zp + s.x + 1#8).toNat) }) := by
  simp [resolveIzx, zpPointer_eq]

theorem resolveIzy_eq (zp : Byte) (s : State) :
    resolveIzy zp s =
      resolveIndexed (mkWord (s.ram.read zp.toNat) (s.ram.read (zp + 1#8).toNat)) s.y
        { s with pc := s.pc + 1#16 } := by
  simp [resolveIzy, zpPointer_eq]

/-- The resolver of a mode, given the operand of a format that fits it. -/
def resolveBy (m : Mode) (o : Operand) (s : State) : Option (Res (Nat × State)) :=
  match m, o with
  | .imp, .none => some (resolveImp s)
  | .acc, .none => some (resolveAcc s)
  | .imm, .byte b => some (resolveImm b s)
  | .zp, .byte b => some (resolveZp b s)
  | .zpx, .byte b => some (resolveZpx b s)
  | .zpy, .byte b => some (resolveZpy b s)
  | .rel, .rel d => some (resolveRel d s)
  | .abs, .word a => some (resolveAbs a s)
  | .abx, .word a => some (resolveAbx a s)
  | .aby, .word a => some (resolveAby a s)
  | .ind, .word a => some (resolveInd a s)
  | .izx, .byte b => some (resolveIzx b s)
  | .izy, .byte b => some (resolveIzy b s)
  | _, _ => none

/-- An instruction's resolver is its mode's, and its operand fits its mode. -/
theorem resolve_by_mode (i : Instr) (s : State) : resolveBy i.entry.mode i.operand s = some (resolve i s) := by
  cases i <;> rfl

/-- An instruction is as long as its mode's format. -/
theorem length_eq_mode (i : Instr) : i.length = i.entry.mode.length := by cases i <;> rfl

/-- Which cycles a row adds, by its mnemonic and mode (40 R135, 44 R230). -/
def extraOf (k : Mnemonic) (m : Mode) : Extra :=
  match k with
  | .bcc | .bcs | .beq | .bne | .bmi | .bpl | .bvc | .bvs => .branch
  | .lda | .ldx | .ldy | .adc | .sbc | .and | .ora | .eor | .cmp =>
    if m = .abx ∨ m = .aby ∨ m = .izy then .page else .none
  | _ => .none

theorem extra_eq (i : Instr) : i.entry.extra = extraOf i.entry.mnemonic i.entry.mode := by cases i <;> rfl

/-- Every mode but IND resolves in every state, and writes `ea`, `opv` and `PC` only. -/
theorem resolve_next {i : Instr} (h : i.entry.mode ≠ .ind) (s : State) :
    ∃ x1 ea opv, resolve i s =
      .next (x1, { s with ea := ea, opv := opv, pc := s.pc + BitVec.ofNat 16 (i.length - 1) }) := by
  have hr := resolve_by_mode i s
  rw [length_eq_mode]
  generalize i.entry.mode = m at h hr ⊢
  generalize i.operand = o at hr
  generalize resolve i s = r at hr ⊢
  cases m <;> cases o <;> simp only [resolveBy, Option.some.injEq, reduceCtorEq] at hr <;> subst hr
  case imp.none => exact ⟨0, s.ea, s.opv, by simp [resolveImp, Mode.length]⟩
  case acc.none => exact ⟨0, s.ea, s.a.setWidth 16, by simp [resolveAcc, Mode.length]⟩
  case imm.byte => exact ⟨_, _, _, rfl⟩
  case zp.byte => exact ⟨_, _, _, rfl⟩
  case zpx.byte => exact ⟨_, _, _, rfl⟩
  case zpy.byte => exact ⟨_, _, _, rfl⟩
  case rel.rel => exact ⟨_, _, _, rfl⟩
  case abs.word => exact ⟨_, _, _, rfl⟩
  case abx.word => exact ⟨_, _, _, rfl⟩
  case aby.word => exact ⟨_, _, _, rfl⟩
  case ind.word => exact absurd rfl h
  case izx.byte => exact ⟨_, _, _, resolveIzx_eq _ _⟩
  case izy.byte => exact ⟨_, _, _, resolveIzy_eq _ _⟩

/-- A resolver of mode IND is the indirect jump's. -/
theorem mode_ind {i : Instr} (h : i.entry.mode = .ind) : ∃ ptr, i = .jmpInd ptr := by
  cases i <;> first
    | exact ⟨_, rfl⟩
    | exact Mode.noConfusion h

theorem mode_ne_ind {i : Instr} (h : i.entry.mnemonic ≠ .jmp) : i.entry.mode ≠ .ind := by
  intro hm
  obtain ⟨ptr, rfl⟩ := mode_ind hm
  exact h rfl

/-- What any resolver can do: it writes `ea`, `opv` and `PC`, and its pointer reads have their read effects. -/
theorem resolve_effect {i : Instr} {s s1 : State} {x1 : Nat} (h : resolve i s = .next (x1, s1)) :
    s1 = { s with
      ea := s1.ea, opv := s1.opv, pc := s.pc + BitVec.ofNat 16 (i.length - 1), draws := s1.draws
      vblank := s1.vblank, w := s1.w, rdbuf := s1.rdbuf, v := s1.v } := by
  by_cases hm : i.entry.mode = .ind
  · obtain ⟨ptr, rfl⟩ := mode_ind hm
    change resolveInd ptr s = _ at h
    simp only [resolveInd, andThen_eq_next] at h
    obtain ⟨⟨lo, t⟩, h1, ⟨hi, u⟩, h2, h3⟩ := h
    have e1 := memRead_afterRead h1
    have e2 := memRead_afterRead h2
    simp only [Host.Outcome.next.injEq, Prod.mk.injEq] at h3
    obtain ⟨-, rfl⟩ := h3
    have e := AfterRead.trans e1 e2
    rw [AfterRead] at e
    rw [e]
    rfl
  · obtain ⟨x, ea, opv, e⟩ := resolve_next hm s
    rw [e] at h
    simp only [Host.Outcome.next.injEq, Prod.mk.injEq] at h
    obtain ⟨-, rfl⟩ := h
    rfl

/-! ## Operands and results -/

/-- What obtaining an operand can do. -/
theorem operand_afterRead {m : Mode} {s t : State} {b : Byte} (h : operand m s = .next (b, t)) :
    AfterRead s t := by
  unfold operand at h
  split at h
  · simp only [Host.Outcome.next.injEq, Prod.mk.injEq] at h
    rw [← h.2]; exact .refl s
  · exact memRead_afterRead h

theorem operand_mem {m : Mode} {s : State} (h : m ≠ .imm ∧ m ≠ .acc) : operand m s = memRead s.ea s := by
  unfold operand
  rw [if_neg (by rintro (e | e) <;> simp_all)]

/-- A readable operand is obtained. -/
theorem operand_of_readable {m : Mode} {s : State} (h : m = .imm ∨ m = .acc ∨ Readable s.ea s = true) :
    ∃ b t, operand m s = .next (b, t) := by
  unfold operand
  split
  · exact ⟨_, _, rfl⟩
  · rename_i hm
    rcases h with h | h | h
    · exact absurd (.inl h) hm
    · exact absurd (.inr h) hm
    · exact memRead_of_readable h

/-- An instruction whose mode is not IND and whose operand is readable obtains its operand. -/
theorem operandGives_of_readable {i : Instr} {s : State} (hm : i.entry.mode ≠ .ind) (h : OperandReadable i s) :
    ∃ x1 m t, OperandGives i s x1 m t := by
  obtain ⟨x1, ea, opv, e⟩ := resolve_next hm (begun i s)
  obtain ⟨b, t, e'⟩ := operand_of_readable (h x1 _ e)
  exact ⟨x1, b, t, _, e, e'⟩

/-- An instruction that obtains its operand, executed from there. -/
theorem exec_of_operand {i : Instr} {s t : State} {x1 : Nat} {m : Byte} (h : OperandGives i s x1 m t)
    {f : Byte × State → Res (Nat × State)}
    (hf : ∀ s1, execute i.entry.mnemonic i.entry.mode s1 = andThen (operand i.entry.mode s1) f) :
    exec i s = andThen (f (m, t)) fun q =>
      .next (finishDispatch i.entry.base i.entry.extra x1 q.1 q.2) := by
  obtain ⟨s1, h1, h2⟩ := h
  rw [exec_of_resolves h1, hf, h2, andThen_next]

/-- The state an operand read leaves: what the resolver wrote, and the read's own effects. -/
theorem OperandGives.effect {i : Instr} {s t : State} {x1 : Nat} {m : Byte} (h : OperandGives i s x1 m t) :
    t = { s with
      opcode := i.entry.opcode, ea := t.ea, opv := t.opv
      pc := s.pc + 1#16 + BitVec.ofNat 16 (i.length - 1), draws := t.draws
      vblank := t.vblank, w := t.w, rdbuf := t.rdbuf, v := t.v } := by
  obtain ⟨s1, h1, h2⟩ := h
  have e1 := resolve_effect h1
  have e2 := operand_afterRead h2
  rw [AfterRead] at e2
  rw [e1] at e2
  rw [e2]
  rfl

theorem OperandGives.unique {i : Instr} {s t u : State} {x y : Nat} {m n : Byte} (h : OperandGives i s x m t)
    (h' : OperandGives i s y n u) : x = y ∧ m = n ∧ t = u := by
  obtain ⟨s1, h1, h2⟩ := h
  obtain ⟨s2, h3, h4⟩ := h'
  obtain ⟨rfl, rfl⟩ := Resolves.unique h1 h3
  have e := h2.symm.trans h4
  simp only [Host.Outcome.next.injEq, Prod.mk.injEq] at e
  exact ⟨rfl, e.1, e.2⟩

end Sys2Proof.Machine
end

