-- ==== Sys2Proof/Laws/Flags.lean ====
section
/-! SUPPORT. Sys2Proof/Laws/Flags.lean: the bits of the packed flags, and the fields of each flag update. -/

namespace Sys2Proof.Machine

/-- The eight bits of the packed flags (10 R31). -/
theorem pack_bits (p : Flags) :
    p.pack.getLsbD 0 = p.c ∧ p.pack.getLsbD 1 = p.z ∧ p.pack.getLsbD 2 = p.i ∧ p.pack.getLsbD 3 = p.d ∧
      p.pack.getLsbD 4 = p.b ∧ p.pack.getLsbD 5 = true ∧ p.pack.getLsbD 6 = p.v ∧ p.pack.getLsbD 7 = p.n := by
  rcases p with ⟨c, z, i, d, b, v, n⟩
  cases c <;> cases z <;> cases i <;> cases d <;> cases b <;> cases v <;> cases n <;> decide

/-- Unpacking depends on the seven bits the flags stand for only. -/
theorem unpack_congr {b b' : Byte} (h : ∀ k, k < 8 → k ≠ 5 → b.getLsbD k = b'.getLsbD k) :
    Flags.unpack b = Flags.unpack b' := by
  simp only [Flags.unpack]
  rw [h 0 (by omega) (by omega), h 1 (by omega) (by omega), h 2 (by omega) (by omega),
    h 3 (by omega) (by omega), h 4 (by omega) (by omega), h 6 (by omega) (by omega),
    h 7 (by omega) (by omega)]

section Fields
variable (r a m : Byte) (carry : Bool) (p : Flags)

@[simp] theorem setZN_c : (p.setZN r).c = p.c := rfl
@[simp] theorem setZN_z : (p.setZN r).z = (r == 0x00#8) := rfl
@[simp] theorem setZN_i : (p.setZN r).i = p.i := rfl
@[simp] theorem setZN_d : (p.setZN r).d = p.d := rfl
@[simp] theorem setZN_b : (p.setZN r).b = p.b := rfl
@[simp] theorem setZN_v : (p.setZN r).v = p.v := rfl
@[simp] theorem setZN_n : (p.setZN r).n = r.getLsbD 7 := rfl

@[simp] theorem adc_c : (p.adc a m).c = adcCarry a m p.c := rfl
@[simp] theorem adc_z : (p.adc a m).z = (adcResult a m p.c == 0x00#8) := rfl
@[simp] theorem adc_i : (p.adc a m).i = p.i := rfl
@[simp] theorem adc_d : (p.adc a m).d = p.d := rfl
@[simp] theorem adc_b : (p.adc a m).b = p.b := rfl
@[simp] theorem adc_v : (p.adc a m).v = adcOverflow a m p.c := rfl
@[simp] theorem adc_n : (p.adc a m).n = (adcResult a m p.c).getLsbD 7 := rfl

@[simp] theorem compare_c : (p.compare r m).c = decide (m.toNat ≤ r.toNat) := rfl
@[simp] theorem compare_z : (p.compare r m).z = (r - m == 0x00#8) := rfl
@[simp] theorem compare_i : (p.compare r m).i = p.i := rfl
@[simp] theorem compare_d : (p.compare r m).d = p.d := rfl
@[simp] theorem compare_b : (p.compare r m).b = p.b := rfl
@[simp] theorem compare_v : (p.compare r m).v = p.v := rfl
@[simp] theorem compare_n : (p.compare r m).n = (r - m).getLsbD 7 := rfl

@[simp] theorem bitTest_c : (p.bitTest a m).c = p.c := rfl
@[simp] theorem bitTest_z : (p.bitTest a m).z = ((a &&& m) == 0x00#8) := rfl
@[simp] theorem bitTest_i : (p.bitTest a m).i = p.i := rfl
@[simp] theorem bitTest_d : (p.bitTest a m).d = p.d := rfl
@[simp] theorem bitTest_b : (p.bitTest a m).b = p.b := rfl
@[simp] theorem bitTest_v : (p.bitTest a m).v = m.getLsbD 6 := rfl
@[simp] theorem bitTest_n : (p.bitTest a m).n = m.getLsbD 7 := rfl

@[simp] theorem shift_c : (p.shift carry r).c = carry := rfl
@[simp] theorem shift_z : (p.shift carry r).z = (r == 0x00#8) := rfl
@[simp] theorem shift_i : (p.shift carry r).i = p.i := rfl
@[simp] theorem shift_d : (p.shift carry r).d = p.d := rfl
@[simp] theorem shift_b : (p.shift carry r).b = p.b := rfl
@[simp] theorem shift_v : (p.shift carry r).v = p.v := rfl
@[simp] theorem shift_n : (p.shift carry r).n = r.getLsbD 7 := rfl

end Fields

end Sys2Proof.Machine
end

