-- ==== Sys2Proof/Laws/Arith.lean ====
section
/-! SUPPORT. Sys2Proof/Laws/Arith.lean: the arithmetic results as numbers, the address arithmetic of the
resolvers, and the stack's slots. -/

namespace Sys2Proof.Machine

/-! ## Results -/

theorem adcResult_toNat (a m : Byte) (c : Bool) :
    (adcResult a m c).toNat = (a.toNat + m.toNat + c.toNat) % 256 := by
  simp [adcResult, adcSum]

set_option maxRecDepth 100000 in
/-- Bit 7 by a mask. -/
theorem and_0x80 (x : Byte) : (x &&& 0x80#8 != 0x00#8) = x.msb := by
  have : ∀ n : Fin 256, ((BitVec.ofFin n : Byte) &&& 0x80#8 != 0x00#8) = (BitVec.ofFin n : Byte).msb := by decide
  exact this x.toFin

theorem adcOverflow_msb (a m : Byte) (c : Bool) :
    adcOverflow a m c = (a.msb == m.msb && a.msb != (adcResult a m c).msb) := by
  unfold adcOverflow
  generalize adcResult a m c = r
  rw [and_0x80]
  simp only [BitVec.msb_and, BitVec.msb_not, BitVec.msb_xor]
  cases a.msb <;> cases m.msb <;> cases r.msb <;> rfl

/-- The overflow flag reports that the signed sum is out of range (42 R199). -/
theorem adcOverflow_iff (a m : Byte) (c : Bool) :
    adcOverflow a m c = true ↔ a.toInt + m.toInt + c.toNat < -128 ∨ 127 < a.toInt + m.toInt + c.toNat := by
  rw [adcOverflow_msb]
  have hr := adcResult_toNat a m c
  have ha := a.isLt
  have hm := m.isLt
  have hc : c.toNat ≤ 1 := by cases c <;> simp
  rw [BitVec.toInt_eq_toNat_cond, BitVec.toInt_eq_toNat_cond]
  simp only [BitVec.msb_eq_decide, hr, Bool.and_eq_true, beq_iff_eq, bne_iff_ne, ne_eq, decide_eq_decide]
  simp only [Nat.reduceSub, Nat.reducePow]
  split <;> split <;> omega

set_option maxRecDepth 100000 in
/-- The one's complement, unsigned and signed. -/
theorem complement_eq (m : Byte) :
    (m ^^^ 0xFF#8).toNat = 255 - m.toNat ∧ (m ^^^ 0xFF#8).toInt = -1 - m.toInt := by
  have : ∀ n : Fin 256, ((BitVec.ofFin n : Byte) ^^^ 0xFF#8).toNat = 255 - (BitVec.ofFin n : Byte).toNat ∧
      ((BitVec.ofFin n : Byte) ^^^ 0xFF#8).toInt = -1 - (BitVec.ofFin n : Byte).toInt := by decide
  exact this m.toFin

theorem aslByte_toNat (m : Byte) : (aslByte m).toNat = 2 * m.toNat % 256 := by
  simp only [aslByte, BitVec.toNat_shiftLeft, Nat.shiftLeft_eq]
  omega

theorem lsrByte_toNat (m : Byte) : (lsrByte m).toNat = m.toNat / 2 := by
  simp only [lsrByte, BitVec.toNat_ushiftRight, Nat.shiftRight_eq_div_pow]

set_option maxRecDepth 100000 in
theorem rolByte_toNat (c : Bool) (m : Byte) : (rolByte c m).toNat = (2 * m.toNat + c.toNat) % 256 := by
  have : ∀ n : Fin 256, ∀ c,
      (rolByte c (BitVec.ofFin n)).toNat = (2 * (BitVec.ofFin n : Byte).toNat + c.toNat) % 256 := by decide
  exact this m.toFin c

set_option maxRecDepth 100000 in
theorem rorByte_toNat (c : Bool) (m : Byte) : (rorByte c m).toNat = m.toNat / 2 + 128 * c.toNat := by
  have : ∀ n : Fin 256, ∀ c,
      (rorByte c (BitVec.ofFin n)).toNat = (BitVec.ofFin n : Byte).toNat / 2 + 128 * c.toNat := by decide
  exact this m.toFin c

theorem lsrByte_bit7 (m : Byte) : (lsrByte m).getLsbD 7 = false := by simp [lsrByte]

theorem rorByte_bit7 (c : Bool) (m : Byte) : (rorByte c m).getLsbD 7 = c := by cases c <;> simp [rorByte]

/-- The accumulator comes back from the 16-bit operand field. -/
theorem setWidth_8_16 (a : Byte) : (a.setWidth 16 : Word).setWidth 8 = a := by
  rw [BitVec.setWidth_setWidth_of_le _ (by decide), BitVec.setWidth_eq]

/-! ## Addresses -/

theorem ofNat_toNat_byte (b : Byte) : BitVec.ofNat 16 b.toNat = b.setWidth 16 := by
  apply BitVec.eq_of_toNat_eq
  simp [BitVec.toNat_setWidth]

/-- An index added within zero page. -/
theorem zeroPage_add (a b : Byte) : BitVec.ofNat 16 ((a.toNat + b.toNat) % 256) = (a + b).setWidth 16 := by
  apply BitVec.eq_of_toNat_eq
  simp [BitVec.toNat_setWidth, BitVec.toNat_add]

/-- The high byte of a zero-page pointer. -/
theorem zeroPage_next (a : Byte) : BitVec.ofNat 16 ((a.toNat + 1) % 256) = (a + 1#8).setWidth 16 := by
  apply BitVec.eq_of_toNat_eq
  simp [BitVec.toNat_setWidth, BitVec.toNat_add]

/-- The high byte of an indirect jump's pointer, in the pointer's page. -/
theorem indirectHigh_eq (w : Word) : BitVec.ofNat 16 (w.toNat / 256 * 256 + (w.toNat + 1) % 256) = indirectHigh w := by
  have hw := w.isLt
  have e1 : (w &&& 0xFF00#16) = BitVec.ofNat 16 (w.toNat / 256 * 256) := by
    apply BitVec.eq_of_toNat_eq
    rw [BitVec.toNat_and]
    have := Nat.and_two_pow_sub_one_eq_mod w.toNat 8
    have h2 : w.toNat &&& 65280 = (w.toNat / 256) * 256 := by
      apply Nat.eq_of_testBit_eq
      intro j
      rw [show (256:Nat) = 2^8 from rfl, ← Nat.shiftLeft_eq, ← Nat.shiftRight_eq_div_pow]
      simp only [Nat.testBit_and, Nat.testBit_shiftLeft, Nat.testBit_shiftRight]
      by_cases hj : j < 16
      · have : ∀ j : Fin 16, Nat.testBit 65280 j = decide (8 ≤ j.val) := by decide
        rw [this ⟨j, hj⟩]
        by_cases h8 : 8 ≤ j
        · simp [h8]
        · simp [h8]
      · have : w.toNat.testBit j = false := Nat.testBit_lt_two_pow (Nat.lt_of_lt_of_le hw (Nat.pow_le_pow_right (by decide) (by omega)))
        by_cases h8 : 8 ≤ j
        · simp [this, h8]
        · omega
    simp [h2]; omega
  have e2 : ((w + 1#16) &&& 0x00FF#16) = BitVec.ofNat 16 ((w.toNat + 1) % 256) := by
    apply BitVec.eq_of_toNat_eq
    rw [BitVec.toNat_and]
    simp only [BitVec.toNat_ofNat, BitVec.toNat_add]
    have := Nat.and_two_pow_sub_one_eq_mod ((w.toNat + 1) % 65536) 8
    have t2 : (w.toNat + 1) % 65536 &&& 255 = (w.toNat + 1) % 65536 % 256 := this
    simp only [Nat.reducePow, Nat.reduceMod]
    rw [t2]; omega
  unfold indirectHigh
  rw [e1, e2]
  apply BitVec.eq_of_toNat_eq
  rw [BitVec.toNat_or]
  have e := Nat.two_pow_add_eq_or_of_lt (i := 8) (b := (w.toNat + 1) % 256) (by omega) (w.toNat / 256)
  simp only [BitVec.toNat_ofNat]
  rw [Nat.mod_eq_of_lt (a := w.toNat / 256 * 256 + _) (by omega), Nat.mod_eq_of_lt (a := w.toNat / 256 * 256) (by omega), Nat.mod_eq_of_lt (a := (w.toNat + 1) % 256) (by omega), Nat.mul_comm (w.toNat / 256)]
  exact e

/-! ## Stack slots -/

theorem stack_in_ram (c : Config) (sp : Byte) : 0x100 + sp.toNat < ramSize c := by
  have := sp.isLt
  unfold ramSize
  split <;> omega

theorem stack_distinct (sp : Byte) : (sp - 1#8).toNat ≠ sp.toNat ∧ (sp - 2#8).toNat ≠ sp.toNat ∧
    (sp - 2#8).toNat ≠ (sp - 1#8).toNat := by
  have := sp.isLt
  simp only [BitVec.toNat_sub, BitVec.toNat_ofNat]
  omega

theorem stack_pulls (sp : Byte) : sp - 3#8 + 1#8 = sp - 2#8 ∧ sp - 3#8 + 2#8 = sp - 1#8 ∧ sp - 3#8 + 3#8 = sp := by
  simp [BitVec.sub_eq_add_neg, BitVec.add_assoc]

set_option maxRecDepth 100000 in
/-- The flags a return pulls, by which entry pushed them. -/
theorem unpack_pushed (p : Flags) (k : Bool) :
    Flags.unpack (if k then { p with b := true }.pack ||| 0x10#8 else p.pack &&& 0xEF#8) = { p with b := k } := by
  rcases p with ⟨c, z, i, d, b, v, n⟩
  cases k <;> cases c <;> cases z <;> cases i <;> cases d <;> cases b <;> cases v <;> cases n <;> decide

/-- The registers an operand read leaves. -/
theorem OperandGives.registers {i : Instr} {s t : State} {x1 : Nat} {m : Byte} (h : OperandGives i s x1 m t) :
    t.p = s.p ∧ t.a = s.a ∧ t.x = s.x ∧ t.y = s.y := by
  rw [h.effect]
  exact ⟨rfl, rfl, rfl, rfl⟩

end Sys2Proof.Machine
end

