-- ==== Sys2Proof/Laws/Exceptions.lean ====
section
/-! SUPPORT. Sys2Proof/Laws/Exceptions.lean: taking an exception and returning from one, in closed form. -/

namespace Sys2Proof.Machine

theorem andThen_push16 {β : Type} (w : Word) (s : State) (f : State → Res β) :
    andThen (push16 w s) f = f { s with
      ram := (s.ram.write (0x100 + s.sp.toNat) (hiByte w)).write (0x100 + (s.sp - 1#8).toNat) (loByte w)
      sp := s.sp - 1#8 - 1#8 } := by
  rw [push16_eq, andThen_next]

theorem sub_one_one (b : Byte) : b - 1#8 - 1#8 = b - 2#8 := by
  simp [BitVec.sub_eq_add_neg, BitVec.add_assoc]

theorem sub_two_one (b : Byte) : b - 2#8 - 1#8 = b - 3#8 := by
  simp [BitVec.sub_eq_add_neg, BitVec.add_assoc]

/-- The three stack bytes of an exception entry (45 R263, 60 R410). -/
def entryRam (ret : Word) (flags : Byte) (s : State) : Memory :=
  ((s.ram.write (0x100 + s.sp.toNat) (hiByte ret)).write (0x100 + (s.sp - 1#8).toNat) (loByte ret)).write
    (0x100 + (s.sp - 2#8).toNat) flags

/-- A byte of the upper half of the CPU space is not one of the entry's stack bytes. -/
theorem plainByte_entryRam {addr : Word} (h : 0x8000 ≤ addr.toNat) (ret : Word) (flags : Byte) (s : State) :
    plainByte addr { s with ram := entryRam ret flags s } = plainByte addr s := by
  have h1 := s.sp.isLt
  have h2 := (s.sp - 1#8).isLt
  have h3 := (s.sp - 2#8).isLt
  have e1 := plainByte_high_ram_write (s := s) h (show 0x100 + s.sp.toNat < 0x8000 by omega) (hiByte ret)
  have e2 := plainByte_high_ram_write (s := { s with ram := s.ram.write (0x100 + s.sp.toNat) (hiByte ret) }) h
    (show 0x100 + (s.sp - 1#8).toNat < 0x8000 by omega) (loByte ret)
  have e3 := plainByte_high_ram_write (s := { s with
      ram := (s.ram.write (0x100 + s.sp.toNat) (hiByte ret)).write (0x100 + (s.sp - 1#8).toNat) (loByte ret) }) h
    (show 0x100 + (s.sp - 2#8).toNat < 0x8000 by omega) flags
  exact (e3.trans e2).trans e1

/-- An exception entry through a vector of the upper half completes in every state, and this is all it
does. -/
theorem enterVector_eq {vector : Word} {lo hi : Byte} {s : State} (h0 : 0x8000 ≤ vector.toNat)
    (h1 : 0x8000 ≤ (vector + 1#16).toNat) (hlo : plainByte vector s = some lo)
    (hhi : plainByte (vector + 1#16) s = some hi) (ret : Word) (flags : Byte) :
    enterVector ret flags vector s = .next { s with
      ram := entryRam ret flags s, sp := s.sp - 3#8, p := { s.p with i := true }
      pc := mkWord lo hi } := by
  rw [enterVector, andThen_push16, push_eq, andThen_next, sub_one_one, sub_two_one]
  have e : ∀ addr, 0x8000 ≤ addr.toNat → plainByte addr { s with
      ram := entryRam ret flags s, sp := s.sp - 3#8, p := { s.p with i := true } } =
      plainByte addr s := fun addr h => plainByte_entryRam h ret flags s
  exact congrArg (fun r => andThen r fun r => Host.Outcome.next { r.2 with pc := r.1 })
    (read16_plain ((e _ h0).trans hlo) ((e _ h1).trans hhi))

/-- Returning from an exception completes in every state, and this is all it does. -/
theorem returnFromException_eq (s : State) :
    returnFromException s = .next { s with
      p := Flags.unpack (s.ram.read (0x100 + (s.sp + 1#8).toNat)), sp := s.sp + 3#8
      pc := mkWord (s.ram.read (0x100 + (s.sp + 2#8).toNat)) (s.ram.read (0x100 + (s.sp + 3#8).toNat)) } := by
  simp only [returnFromException, pull_eq, pull16_eq, andThen_next, BitVec.add_assoc]
  rfl

end Sys2Proof.Machine
end

