-- ==== Sys2Proof/Laws/Execute.lean ====
section
/-! SUPPORT. Sys2Proof/Laws/Execute.lean: the handlers in five shapes: they read an operand, store a register,
change an operand in its place, change registers only, or branch; the rest in closed form. -/

namespace Sys2Proof.Machine

/-- The handlers that read an operand and write registers and flags. -/
def readEffect (k : Mnemonic) (b : Byte) (t : State) : State :=
  match k with
  | .lda => { t with a := b, p := t.p.setZN b }
  | .ldx => { t with x := b, p := t.p.setZN b }
  | .ldy => { t with y := b, p := t.p.setZN b }
  | .adc => { t with a := adcResult t.a b t.p.c, p := t.p.adc t.a b }
  | .sbc => { t with a := adcResult t.a (b ^^^ 0xFF#8) t.p.c, p := t.p.adc t.a (b ^^^ 0xFF#8) }
  | .and => { t with a := t.a &&& b, p := t.p.setZN (t.a &&& b) }
  | .ora => { t with a := t.a ||| b, p := t.p.setZN (t.a ||| b) }
  | .eor => { t with a := t.a ^^^ b, p := t.p.setZN (t.a ^^^ b) }
  | .cmp => { t with p := t.p.compare t.a b }
  | .cpx => { t with p := t.p.compare t.x b }
  | .cpy => { t with p := t.p.compare t.y b }
  | .bit => { t with p := t.p.bitTest t.a b }
  | _ => t

def isRead (k : Mnemonic) : Bool :=
  match k with
  | .lda | .ldx | .ldy | .adc | .sbc | .and | .ora | .eor | .cmp | .cpx | .cpy | .bit => true
  | _ => false

theorem execute_read {k : Mnemonic} (h : isRead k = true) (m : Mode) (s : State) :
    execute k m s = andThen (operand m s) fun r => .next (0, readEffect k r.1 r.2) := by
  cases k <;> first
    | rfl
    | exact Bool.noConfusion h

/-- The register a store stores. -/
def storedByte (k : Mnemonic) (s : State) : Byte :=
  match k with
  | .stx => s.x
  | .sty => s.y
  | _ => s.a

def isStore (k : Mnemonic) : Bool :=
  match k with
  | .sta | .stx | .sty => true
  | _ => false

theorem execute_store {k : Mnemonic} (h : isStore k = true) (m : Mode) (s : State) :
    execute k m s = andThen (memWrite s.ea (storedByte k s) s) fun t => .next (0, t) := by
  cases k <;> first
    | rfl
    | exact Bool.noConfusion h

/-- The result of a shift, an INC or a DEC. -/
def modifiedByte (k : Mnemonic) (c : Bool) (b : Byte) : Byte :=
  match k with
  | .asl => aslByte b
  | .lsr => lsrByte b
  | .rol => rolByte c b
  | .ror => rorByte c b
  | .inc => b + 1#8
  | _ => b - 1#8

/-- The flags after a shift, an INC or a DEC. -/
def modifiedFlags (k : Mnemonic) (b : Byte) (p : Flags) : Flags :=
  match k with
  | .asl | .rol => p.shift (b.getLsbD 7) (modifiedByte k p.c b)
  | .lsr | .ror => p.shift (b.getLsbD 0) (modifiedByte k p.c b)
  | _ => p.setZN (modifiedByte k p.c b)

def isShift (k : Mnemonic) : Bool :=
  match k with
  | .asl | .lsr | .rol | .ror => true
  | _ => false

def isIncDec (k : Mnemonic) : Bool :=
  match k with
  | .inc | .dec => true
  | _ => false

theorem execute_shift {k : Mnemonic} (h : isShift k = true) (m : Mode) (s : State) :
    execute k m s = andThen (operand m s) fun r =>
      andThen (result m (modifiedByte k r.2.p.c r.1) { r.2 with p := modifiedFlags k r.1 r.2.p }) fun t =>
        .next (0, t) := by
  cases k <;> first
    | rfl
    | exact Bool.noConfusion h

theorem execute_incDec {k : Mnemonic} (h : isIncDec k = true) (m : Mode) (s : State) :
    execute k m s = andThen (memRead s.ea s) fun r =>
      andThen (memWrite r.2.ea (modifiedByte k r.2.p.c r.1) { r.2 with p := modifiedFlags k r.1 r.2.p }) fun t =>
        .next (0, t) := by
  cases k <;> first
    | rfl
    | exact Bool.noConfusion h

/-- The handlers that touch registers, flags and `PC` only, in every state. -/
def registerEffect (k : Mnemonic) (s : State) : State :=
  match k with
  | .tax => { s with x := s.a, p := s.p.setZN s.a }
  | .tay => { s with y := s.a, p := s.p.setZN s.a }
  | .txa => { s with a := s.x, p := s.p.setZN s.x }
  | .tya => { s with a := s.y, p := s.p.setZN s.y }
  | .tsx => { s with x := s.sp, p := s.p.setZN s.sp }
  | .txs => { s with sp := s.x }
  | .inx => { s with x := s.x + 1#8, p := s.p.setZN (s.x + 1#8) }
  | .iny => { s with y := s.y + 1#8, p := s.p.setZN (s.y + 1#8) }
  | .dex => { s with x := s.x - 1#8, p := s.p.setZN (s.x - 1#8) }
  | .dey => { s with y := s.y - 1#8, p := s.p.setZN (s.y - 1#8) }
  | .clc => { s with p := { s.p with c := false } }
  | .sec => { s with p := { s.p with c := true } }
  | .cli => { s with p := { s.p with i := false } }
  | .sei => { s with p := { s.p with i := true } }
  | .cld => { s with p := { s.p with d := false } }
  | .sed => { s with p := { s.p with d := true } }
  | .clv => { s with p := { s.p with v := false } }
  | .jmp => { s with pc := s.ea }
  | _ => s

def isRegister (k : Mnemonic) : Bool :=
  match k with
  | .tax | .tay | .txa | .tya | .tsx | .txs | .inx | .iny | .dex | .dey | .clc | .sec | .cli | .sei | .cld
  | .sed | .clv | .jmp | .nop => true
  | _ => false

theorem execute_register {k : Mnemonic} (h : isRegister k = true) (m : Mode) (s : State) :
    execute k m s = .next (0, registerEffect k s) := by
  cases k <;> first
    | rfl
    | exact Bool.noConfusion h

/-- The condition a branch tests. -/
def branchCond (k : Mnemonic) (p : Flags) : Bool :=
  match k with
  | .bcc => !p.c
  | .bcs => p.c
  | .beq => p.z
  | .bne => !p.z
  | .bmi => p.n
  | .bpl => !p.n
  | .bvc => !p.v
  | _ => p.v

def isBranch (k : Mnemonic) : Bool :=
  match k with
  | .bcc | .bcs | .beq | .bne | .bmi | .bpl | .bvc | .bvs => true
  | _ => false

theorem execute_branch {k : Mnemonic} (h : isBranch k = true) (m : Mode) (s : State) :
    execute k m s = branchIf (branchCond k s.p) s := by
  cases k <;> first
    | rfl
    | exact Bool.noConfusion h

/-- A branch writes `PC` only. -/
theorem branchIf_eq (c : Bool) (s : State) :
    ∃ x2 pc, branchIf c s = .next (x2, { s with pc := pc }) ∧ x2 ≤ 2 := by
  cases c
  · exact ⟨0, s.pc, rfl, by omega⟩
  · refine ⟨1 + pageCross s.pc (s.pc + s.opv), s.pc + s.opv, rfl, ?_⟩
    unfold pageCross
    split <;> omega

/-! ## The instructions of the stack -/

theorem execute_pha (m : Mode) (s : State) : execute .pha m s =
    .next (0, { s with ram := s.ram.write (0x100 + s.sp.toNat) s.a, sp := s.sp - 1#8 }) := by
  simp [execute, handlePha, push_eq]

theorem execute_php (m : Mode) (s : State) : execute .php m s =
    .next (0, { s with ram := s.ram.write (0x100 + s.sp.toNat) (s.p.pack ||| 0x10#8), sp := s.sp - 1#8 }) := by
  simp [execute, handlePhp, push_eq]

theorem execute_pla (m : Mode) (s : State) : execute .pla m s =
    .next (0, { s with
      a := s.ram.read (0x100 + (s.sp + 1#8).toNat), p := s.p.setZN (s.ram.read (0x100 + (s.sp + 1#8).toNat))
      sp := s.sp + 1#8 }) := by
  simp [execute, handlePla, pull_eq]

theorem execute_plp (m : Mode) (s : State) : execute .plp m s =
    .next (0, { s with p := Flags.unpack (s.ram.read (0x100 + (s.sp + 1#8).toNat)), sp := s.sp + 1#8 }) := by
  simp [execute, handlePlp, pull_eq]

theorem execute_jsr (m : Mode) (s : State) : execute .jsr m s =
    .next (0, { s with
      ram := (s.ram.write (0x100 + s.sp.toNat) (hiByte (s.pc - 1#16))).write (0x100 + (s.sp - 1#8).toNat)
        (loByte (s.pc - 1#16))
      sp := s.sp - 2#8, pc := s.ea }) := by
  simp only [execute, handleJsr, push16_eq, andThen_next, sub_one_one]

theorem execute_rts (m : Mode) (s : State) : execute .rts m s =
    .next (0, { s with
      pc := mkWord (s.ram.read (0x100 + (s.sp + 1#8).toNat)) (s.ram.read (0x100 + (s.sp + 2#8).toNat)) + 1#16
      sp := s.sp + 2#8 }) := by
  simp only [execute, handleRts, pull16_eq, andThen_next, BitVec.add_assoc]
  rfl

/-- BRK completes in every state. -/
theorem execute_brk (m : Mode) (s : State) : ∃ lo hi, plainByte 0xFFFE#16 s = some lo ∧
    plainByte 0xFFFF#16 s = some hi ∧ execute .brk m s = .next (0, { s with
      p := { s.p with b := true, i := true }, sp := s.sp - 3#8, pc := mkWord lo hi
      ram := entryRam (s.pc + 1#16) ({ s.p with b := true }.pack ||| 0x10#8) s }) := by
  obtain ⟨lo, hlo⟩ := plainByte_high_isSome (addr := 0xFFFE#16) s (by decide)
  obtain ⟨hi, hhi⟩ := plainByte_high_isSome (addr := 0xFFFF#16) s (by decide)
  refine ⟨lo, hi, hlo, hhi, ?_⟩
  have e := enterVector_eq (s := { s with p := { s.p with b := true } }) (vector := 0xFFFE#16) (by decide)
    (by decide) hlo hhi (s.pc + 1#16) ({ s.p with b := true }.pack ||| 0x10#8)
  exact congrArg (fun r => andThen r fun t => Host.Outcome.next (0, t)) e

theorem execute_rti (m : Mode) (s : State) : execute .rti m s =
    .next (0, { s with
      p := Flags.unpack (s.ram.read (0x100 + (s.sp + 1#8).toNat)), sp := s.sp + 3#8
      pc := mkWord (s.ram.read (0x100 + (s.sp + 2#8).toNat)) (s.ram.read (0x100 + (s.sp + 3#8).toNat)) }) := by
  simp only [execute, handleRti, returnFromException_eq, andThen_next]

/-- The modes the rows of the opcode table give the instructions that obtain an operand. -/
def operandModeOk (k : Mnemonic) (m : Mode) : Bool :=
  !(isRead k || isShift k || isIncDec k) ||
    (m != .imp && m != .rel && m != .ind && (!isIncDec k || (m != .imm && m != .acc)))

theorem operandModeOk_all (i : Instr) : operandModeOk i.entry.mnemonic i.entry.mode = true := by
  cases i <;> rfl

/-- An instruction that obtains an operand has a mode that gives one. -/
theorem operand_mode {i : Instr}
    (h : isRead i.entry.mnemonic = true ∨ isShift i.entry.mnemonic = true ∨ isIncDec i.entry.mnemonic = true) :
    i.entry.mode ≠ .imp ∧ i.entry.mode ≠ .rel ∧ i.entry.mode ≠ .ind := by
  have h2 := operandModeOk_all i
  unfold operandModeOk at h2
  generalize i.entry.mode = m at h2 ⊢
  generalize i.entry.mnemonic = k at h h2
  refine ⟨?_, ?_, ?_⟩ <;> rintro rfl <;> simp_all

/-- INC and DEC have memory modes only. -/
theorem incDec_mode {i : Instr} (h : isIncDec i.entry.mnemonic = true) :
    i.entry.mode ≠ .imm ∧ i.entry.mode ≠ .acc := by
  have h2 := operandModeOk_all i
  unfold operandModeOk at h2
  generalize i.entry.mode = m at h2 ⊢
  generalize i.entry.mnemonic = k at h h2
  refine ⟨?_, ?_⟩ <;> rintro rfl <;> simp_all

/-- Every mnemonic has one of the shapes of this file. -/
theorem mnemonic_shapes (k : Mnemonic) : isRead k = true ∨ isStore k = true ∨ isShift k = true ∨
    isIncDec k = true ∨ isRegister k = true ∨ isBranch k = true ∨ k = .pha ∨ k = .php ∨ k = .pla ∨ k = .plp ∨
    k = .jsr ∨ k = .rts ∨ k = .brk ∨ k = .rti := by
  cases k <;> decide

end Sys2Proof.Machine
end

