-- ==== Sys2Proof/Laws/Table.lean ====
section
/-! SUPPORT. Sys2Proof/Laws/Table.lean: what every row of the opcode table makes. -/

namespace Sys2Proof

/-- A row makes instructions with its own opcode and the operand it is given. -/
def RowMakes (op : Byte) : Template → Prop
  | .imp i => i.entry.opcode = op ∧ i.operand = .none
  | .byte f => ∀ b, (f b).entry.opcode = op ∧ (f b).operand = .byte b
  | .rel f => ∀ d, (f d).entry.opcode = op ∧ (f d).operand = .rel d
  | .word f => ∀ w, (f w).entry.opcode = op ∧ (f w).operand = .word w

theorem rowMakes_cons {op : Byte} {t : Template} {l : List (Byte × Template)} (h : RowMakes op t)
    (hl : ∀ r ∈ l, RowMakes r.1 r.2) : ∀ r ∈ (op, t) :: l, RowMakes r.1 r.2 := by
  intro r hr
  rcases List.mem_cons.1 hr with rfl | hr
  · exact h
  · exact hl r hr

theorem rowMakes_nil : ∀ r ∈ ([] : List (Byte × Template)), RowMakes r.1 r.2 := by simp

theorem opcodeRow0_makes : ∀ r ∈ opcodeRow0, RowMakes r.1 r.2 := by
  unfold opcodeRow0
  repeat' first
    | exact rowMakes_nil
    | exact ⟨rfl, rfl⟩
    | exact fun _ => ⟨rfl, rfl⟩
    | apply rowMakes_cons

theorem opcodeRow1_makes : ∀ r ∈ opcodeRow1, RowMakes r.1 r.2 := by
  unfold opcodeRow1
  repeat' first
    | exact rowMakes_nil
    | exact ⟨rfl, rfl⟩
    | exact fun _ => ⟨rfl, rfl⟩
    | apply rowMakes_cons

theorem opcodeRow2_makes : ∀ r ∈ opcodeRow2, RowMakes r.1 r.2 := by
  unfold opcodeRow2
  repeat' first
    | exact rowMakes_nil
    | exact ⟨rfl, rfl⟩
    | exact fun _ => ⟨rfl, rfl⟩
    | apply rowMakes_cons

theorem opcodeRow3_makes : ∀ r ∈ opcodeRow3, RowMakes r.1 r.2 := by
  unfold opcodeRow3
  repeat' first
    | exact rowMakes_nil
    | exact ⟨rfl, rfl⟩
    | exact fun _ => ⟨rfl, rfl⟩
    | apply rowMakes_cons

theorem opcodeRow4_makes : ∀ r ∈ opcodeRow4, RowMakes r.1 r.2 := by
  unfold opcodeRow4
  repeat' first
    | exact rowMakes_nil
    | exact ⟨rfl, rfl⟩
    | exact fun _ => ⟨rfl, rfl⟩
    | apply rowMakes_cons

theorem opcodeRow5_makes : ∀ r ∈ opcodeRow5, RowMakes r.1 r.2 := by
  unfold opcodeRow5
  repeat' first
    | exact rowMakes_nil
    | exact ⟨rfl, rfl⟩
    | exact fun _ => ⟨rfl, rfl⟩
    | apply rowMakes_cons

theorem opcodeRow6_makes : ∀ r ∈ opcodeRow6, RowMakes r.1 r.2 := by
  unfold opcodeRow6
  repeat' first
    | exact rowMakes_nil
    | exact ⟨rfl, rfl⟩
    | exact fun _ => ⟨rfl, rfl⟩
    | apply rowMakes_cons

theorem opcodeRow7_makes : ∀ r ∈ opcodeRow7, RowMakes r.1 r.2 := by
  unfold opcodeRow7
  repeat' first
    | exact rowMakes_nil
    | exact ⟨rfl, rfl⟩
    | exact fun _ => ⟨rfl, rfl⟩
    | apply rowMakes_cons

theorem opcodeRow8_makes : ∀ r ∈ opcodeRow8, RowMakes r.1 r.2 := by
  unfold opcodeRow8
  repeat' first
    | exact rowMakes_nil
    | exact ⟨rfl, rfl⟩
    | exact fun _ => ⟨rfl, rfl⟩
    | apply rowMakes_cons

theorem opcodeRow9_makes : ∀ r ∈ opcodeRow9, RowMakes r.1 r.2 := by
  unfold opcodeRow9
  repeat' first
    | exact rowMakes_nil
    | exact ⟨rfl, rfl⟩
    | exact fun _ => ⟨rfl, rfl⟩
    | apply rowMakes_cons

theorem opcodeRowA_makes : ∀ r ∈ opcodeRowA, RowMakes r.1 r.2 := by
  unfold opcodeRowA
  repeat' first
    | exact rowMakes_nil
    | exact ⟨rfl, rfl⟩
    | exact fun _ => ⟨rfl, rfl⟩
    | apply rowMakes_cons

theorem opcodeRowB_makes : ∀ r ∈ opcodeRowB, RowMakes r.1 r.2 := by
  unfold opcodeRowB
  repeat' first
    | exact rowMakes_nil
    | exact ⟨rfl, rfl⟩
    | exact fun _ => ⟨rfl, rfl⟩
    | apply rowMakes_cons

theorem opcodeRowC_makes : ∀ r ∈ opcodeRowC, RowMakes r.1 r.2 := by
  unfold opcodeRowC
  repeat' first
    | exact rowMakes_nil
    | exact ⟨rfl, rfl⟩
    | exact fun _ => ⟨rfl, rfl⟩
    | apply rowMakes_cons

theorem opcodeRowD_makes : ∀ r ∈ opcodeRowD, RowMakes r.1 r.2 := by
  unfold opcodeRowD
  repeat' first
    | exact rowMakes_nil
    | exact ⟨rfl, rfl⟩
    | exact fun _ => ⟨rfl, rfl⟩
    | apply rowMakes_cons

theorem opcodeRowE_makes : ∀ r ∈ opcodeRowE, RowMakes r.1 r.2 := by
  unfold opcodeRowE
  repeat' first
    | exact rowMakes_nil
    | exact ⟨rfl, rfl⟩
    | exact fun _ => ⟨rfl, rfl⟩
    | apply rowMakes_cons

theorem opcodeRowF_makes : ∀ r ∈ opcodeRowF, RowMakes r.1 r.2 := by
  unfold opcodeRowF
  repeat' first
    | exact rowMakes_nil
    | exact ⟨rfl, rfl⟩
    | exact fun _ => ⟨rfl, rfl⟩
    | apply rowMakes_cons

theorem opcodeTable_makes : ∀ r ∈ opcodeTable, RowMakes r.1 r.2 := by
  simp only [opcodeTable, List.forall_mem_append]
  exact ⟨⟨⟨⟨⟨⟨⟨⟨⟨⟨⟨⟨⟨⟨⟨opcodeRow0_makes, opcodeRow1_makes⟩, opcodeRow2_makes⟩, opcodeRow3_makes⟩,
    opcodeRow4_makes⟩, opcodeRow5_makes⟩, opcodeRow6_makes⟩, opcodeRow7_makes⟩, opcodeRow8_makes⟩,
    opcodeRow9_makes⟩, opcodeRowA_makes⟩, opcodeRowB_makes⟩, opcodeRowC_makes⟩, opcodeRowD_makes⟩,
    opcodeRowE_makes⟩, opcodeRowF_makes⟩

theorem mem_of_lookup {op : Byte} {t : Template} :
    ∀ {l : List (Byte × Template)}, l.lookup op = some t → (op, t) ∈ l
  | [], h => by simp at h
  | (k, u) :: l, h => by
    simp only [List.lookup_cons] at h
    split at h
    · rename_i hk
      rw [beq_iff_eq] at hk
      simp_all
    · exact List.mem_cons_of_mem _ (mem_of_lookup h)

/-- What the row of an opcode byte makes. -/
theorem templateOf_makes {op : Byte} {t : Template} (h : templateOf op = some t) : RowMakes op t :=
  opcodeTable_makes (op, t) (mem_of_lookup h)

/-- A displacement in the range of a signed byte comes back from its byte. -/
theorem toInt_ofInt_of_wellFormed {d : Int} (h : (Operand.rel d).WellFormed = true) :
    (BitVec.ofInt 8 d).toInt = d := by
  simp only [Operand.WellFormed, Bool.and_eq_true, decide_eq_true_eq] at h
  rw [BitVec.toInt_ofInt, Int.bmod_eq_of_le (by omega) (by omega)]

end Sys2Proof
end

