-- ==== Sys2Proof/Laws/Fetch.lean ====
section
/-! SUPPORT. Sys2Proof/Laws/Fetch.lean: what fetching an instruction reads and gives. -/

namespace Sys2Proof.Machine

theorem AfterRead.pc {s t : State} (h : AfterRead s t) : t.pc = s.pc := by rw [AfterRead] at h; rw [h]

theorem AfterRead.config {s t : State} (h : AfterRead s t) : t.config = s.config := by
  rw [AfterRead] at h; rw [h]

/-- A completed fetch read the opcode byte and found its row. -/
theorem fetch_row {s t : State} {i : Instr} (h : fetch s = .next (i, t)) :
    ∃ op u tm, memRead s.pc s = .next (op, u) ∧ templateOf op = some tm ∧ fetchOperand tm u = .next (i, t) := by
  simp only [fetch, andThen_eq_next] at h
  obtain ⟨⟨op, u⟩, h1, h⟩ := h
  dsimp only at h
  split at h
  · exact ⟨op, u, _, h1, ‹_›, h⟩
  · unfold unknownOpcode at h
    split at h <;> simp at h

/-- What a completed fetch read, by the operand of the instruction it gives. -/
theorem fetch_reads {s t : State} {i : Instr} (h : fetch s = .next (i, t)) :
    match i.operand with
    | .none => FetchedOpcode i s t
    | .byte b => FetchedByte i b s t
    | .rel d => ∃ b, FetchedByte i b s t ∧ d = b.toInt
    | .word w => FetchedWord i w s t := by
  obtain ⟨op, u, tm, h1, h2, h3⟩ := fetch_row h
  have hm := templateOf_makes h2
  have hpc := (memRead_afterRead h1).pc
  cases tm with
  | imp j =>
    obtain ⟨e1, e2⟩ := hm
    simp only [fetchOperand, Host.Outcome.next.injEq, Prod.mk.injEq] at h3
    obtain ⟨rfl, rfl⟩ := h3
    rw [e2]
    rw [← e1] at h1
    exact h1
  | byte f =>
    simp only [fetchOperand, andThen_eq_next, Host.Outcome.next.injEq, Prod.mk.injEq] at h3
    obtain ⟨⟨b, v⟩, h4, rfl, rfl⟩ := h3
    obtain ⟨e1, e2⟩ := hm b
    rw [e2]
    rw [← e1] at h1
    rw [hpc] at h4
    exact ⟨u, h1, h4⟩
  | rel f =>
    simp only [fetchOperand, andThen_eq_next, Host.Outcome.next.injEq, Prod.mk.injEq] at h3
    obtain ⟨⟨b, v⟩, h4, rfl, rfl⟩ := h3
    obtain ⟨e1, e2⟩ := hm b.toInt
    rw [e2]
    rw [← e1] at h1
    rw [hpc] at h4
    exact ⟨b, ⟨u, h1, h4⟩, rfl⟩
  | word f =>
    simp only [fetchOperand, read16, andThen_eq_next, Host.Outcome.next.injEq, Prod.mk.injEq] at h3
    obtain ⟨⟨w, v⟩, ⟨⟨lo, x⟩, h4, ⟨hi, y⟩, h5, rfl, rfl⟩, rfl, rfl⟩ := h3
    obtain ⟨e1, e2⟩ := hm (mkWord lo hi)
    rw [e2]
    rw [← e1] at h1
    rw [hpc] at h4 h5
    rw [BitVec.add_assoc] at h5
    exact ⟨u, lo, x, hi, h1, h4, h5, mkWord_eq lo hi⟩

theorem fetch_afterRead {s t : State} {i : Instr} (h : fetch s = .next (i, t)) : AfterRead s t := by
  have hr := fetch_reads h
  cases ho : i.operand <;> rw [ho] at hr
  · exact memRead_afterRead hr
  · obtain ⟨u, h1, h2⟩ := hr
    exact (memRead_afterRead h1).trans (memRead_afterRead h2)
  · obtain ⟨u, lo, v, hi, h1, h2, h3, -⟩ := hr
    exact ((memRead_afterRead h1).trans (memRead_afterRead h2)).trans (memRead_afterRead h3)
  · obtain ⟨b, ⟨u, h1, h2⟩, -⟩ := hr
    exact (memRead_afterRead h1).trans (memRead_afterRead h2)

/-- A fetch from plain memory that holds an instruction's bytes gives it and changes nothing. -/
theorem fetch_of_holds {s : State} {i : Instr} {tm : Template} (ht : templateOf i.entry.opcode = some tm)
    (h : plainByte s.pc s = some i.entry.opcode) : fetch s = fetchOperand tm s := by
  simp [fetch, memRead_plain h, ht]

end Sys2Proof.Machine
end

