-- ==== Sys2Proof/Laws/Ppu.lean ====
section
/-! SUPPORT. Sys2Proof/Laws/Ppu.lean: the PPU's registers, bus and clock: one lemma for each shared operation. -/

namespace Sys2Proof.Machine

/-! ## Registers -/

/-- A register read with no fault latched. -/
theorem ppuReadReg_eq {s : State} (h : s.ppuFault = none) (i : BitVec 3) :
    ppuReadReg i s =
      match i.toNat with
      | 2 => readStatus s
      | 4 => readOamData s
      | 7 => readPpuData s
      | _ => .next (drawByte s, countDraw s) := by
  simp only [ppuReadReg, h] <;> rfl

/-- A register write with no fault latched. -/
theorem ppuWriteReg_eq {s : State} (h : s.ppuFault = none) (i : BitVec 3) (b : Byte) :
    ppuWriteReg i b s =
      match i.toNat with
      | 0 => .next { s with ppuctrl := b }
      | 1 => .next { s with ppumask := b }
      | 3 => .next { s with oamAddr := b }
      | 4 => .next (writeOamData b s)
      | 5 => .next (writeScroll b s)
      | 6 => .next (writePpuAddr b s)
      | 7 => writePpuData b s
      | _ => .next s := by
  simp only [ppuWriteReg, h] <;> rfl

/-! ## The PPU bus -/

theorem ppuAddr_wide (v : PpuAddr) : BitVec.ofNat 16 v.toNat = v.setWidth 16 := by
  apply BitVec.eq_of_toNat_eq
  simp [BitVec.toNat_setWidth]

theorem ppuAddr_narrow (v : PpuAddr) : (v.setWidth 16).setWidth 14 = v := by
  have h := v.isLt
  apply BitVec.eq_of_toNat_eq
  simp only [BitVec.toNat_setWidth]
  omega

theorem ppuAddr_toNat (v : PpuAddr) : (v.setWidth 16).toNat = v.toNat := by
  have h := v.isLt
  simp only [BitVec.toNat_setWidth]
  omega

/-- A read of a 14-bit address always completes (log 9). -/
theorem ppuRead_eq (v : PpuAddr) (s : State) : ppuRead (v.setWidth 16) s = .next (ppuByte v s) := by
  have h := v.isLt
  rw [ppuRead, if_pos (by rw [ppuAddr_toNat]; omega), ppuAddr_narrow]

/-- A write of a 14-bit address goes to the cell its route gives. -/
theorem ppuWrite_eq (v : PpuAddr) (b : Byte) (s : State) :
    ppuWrite (v.setWidth 16) b s =
      match ppuRoute s.config v with
      | .chr i =>
        if s.config.chrWritable then .next { s with chr := s.chr.write i b }
        else .fault (.readOnlyViolation .ppu (v.setWidth 16))
      | .nt i => .next { s with nt := s.nt.write i b }
      | .pal i => .next { s with pal := s.pal.write i b } := by
  have h := v.isLt
  rw [ppuWrite, if_pos (by rw [ppuAddr_toNat]; omega), ppuAddr_narrow] <;> rfl

theorem ppuRoute_chr {c : Config} {v : PpuAddr} (h : v.toNat < 0x2000) : ppuRoute c v = .chr v.toNat := by
  rw [ppuRoute, if_pos (by omega)]

theorem ppuRoute_nt {c : Config} {v : PpuAddr} (h : 0x2000 ≤ v.toNat) (h' : v.toNat < 0x3000) :
    ppuRoute c v = .nt ((v.toNat - 0x2000) % c.ntSize) := by
  rw [ppuRoute, if_neg (by omega), if_pos (by omega)]

theorem ppuRoute_mirror {c : Config} {v : PpuAddr} (h : 0x3000 ≤ v.toNat) (h' : v.toNat < 0x3F00) :
    ppuRoute c v = .nt ((v.toNat - 0x3000) % c.ntSize) := by
  rw [ppuRoute, if_neg (by omega), if_neg (by omega), if_pos (by omega)]

theorem ppuRoute_pal {c : Config} {v : PpuAddr} (h : 0x3F00 ≤ v.toNat) : ppuRoute c v = .pal (palIndex v) := by
  rw [ppuRoute, if_neg (by omega), if_neg (by omega), if_neg (by omega)]

/-- The mirror's route is its image's. -/
theorem ppuRoute_image {c : Config} {v u : PpuAddr} (h : 0x3000 ≤ v.toNat) (h' : v.toNat < 0x3F00)
    (hu : u.toNat = v.toNat - 0x1000) : ppuRoute c u = ppuRoute c v := by
  rw [ppuRoute_mirror h h', ppuRoute_nt (by omega) (by omega), hu, Nat.sub_sub]

/-- Addresses of one route show one byte. -/
theorem ppuByte_congr {v u : PpuAddr} (s : State) (h : ppuRoute s.config u = ppuRoute s.config v) :
    ppuByte u s = ppuByte v s := by
  rw [ppuByte, ppuByte, h]

/-- A palette index is one of the 28 cells. -/
theorem palIndex_cell (v : PpuAddr) : palIndex v < 32 ∧ palPaired (palIndex v) = false := by
  have h : v.toNat % 32 < 32 := Nat.mod_lt _ (by omega)
  unfold palIndex palPaired
  generalize v.toNat % 32 = i at h
  constructor
  · dsimp only
    split <;> omega
  · dsimp only
    split
    · rename_i hi
      rcases hi with rfl | rfl | rfl | rfl <;> rfl
    · rename_i hi
      simp only [not_or] at hi
      simp [hi]

/-! ## The clock -/

/-- The state the events of a position leave. -/
theorem ppuEvents_eq (s : State) : ppuEvents s = { s with
    vblank := if s.scanline = -1 ∧ s.cycle = 1 then false
      else if s.scanline = 241 ∧ s.cycle = 1 then true else s.vblank
    nmi := s.nmi || (decide (s.scanline = 241 ∧ s.cycle = 1) && s.ppuctrl.getLsbD 7) } := by
  unfold ppuEvents
  split
  · rename_i h
    have h' : ¬ (s.scanline = 241 ∧ s.cycle = 1) := by omega
    simp [h']
  · split
    · rename_i h
      simp [h]
    · rename_i h
      simp [h]

/-- The state the pixel of a position leaves. -/
theorem ppuPixel_eq (s : State) : ppuPixel s = { s with
    sink := if 0 ≤ s.scanline ∧ s.scanline < 240 ∧ s.cycle < 256 then
        ⟨BitVec.ofNat 8 s.cycle, BitVec.ofNat 8 s.scanline.toNat, pixelColour s.cycle s.scanline.toNat s⟩ :: s.sink
      else s.sink } := by
  unfold ppuPixel
  split <;> rfl

/-- The state the advance of the counters leaves. -/
theorem ppuAdvance_eq (s : State) : ppuAdvance s = { s with
    cycle := if s.cycle + 1 = 341 then 0 else s.cycle + 1
    scanline := if s.cycle + 1 = 341 then (if s.scanline + 1 = 261 then -1 else s.scanline + 1) else s.scanline
    frameComplete := s.frameComplete || decide (s.cycle + 1 = 341 ∧ s.scanline + 1 = 261) } := by
  unfold ppuAdvance
  split
  · rename_i h
    split
    · rename_i h'
      simp [h, h']
    · rename_i h'
      simp [h, h']
  · rename_i h
    simp [h]

/-- A PPU clock changes its counters, its three flags and the sink only. -/
theorem ppuClock_effect (s : State) : ppuClock s = { s with
    cycle := (ppuClock s).cycle, scanline := (ppuClock s).scanline, frameComplete := (ppuClock s).frameComplete
    vblank := (ppuClock s).vblank, nmi := (ppuClock s).nmi, sink := (ppuClock s).sink } := by
  unfold ppuClock
  split
  · rfl
  · rw [ppuEvents_eq, ppuPixel_eq, ppuAdvance_eq]

/-- So do three of them. -/
theorem ppuTicks_effect (s : State) : ppuTicks s = { s with
    cycle := (ppuTicks s).cycle, scanline := (ppuTicks s).scanline, frameComplete := (ppuTicks s).frameComplete
    vblank := (ppuTicks s).vblank, nmi := (ppuTicks s).nmi, sink := (ppuTicks s).sink } := by
  unfold ppuTicks
  generalize hu : ppuClock s = u
  generalize hv : ppuClock u = v
  have e1 := ppuClock_effect s
  have e2 := ppuClock_effect u
  have e3 := ppuClock_effect v
  rw [hu] at e1
  rw [hv] at e2
  generalize ppuClock v = w at e3 ⊢
  rw [e3, e2, e1]

/-- Plain memory reads the same after the PPU's clocks. -/
theorem plainByte_ppuTicks (addr : Word) (s : State) : plainByte addr (ppuTicks s) = plainByte addr s := by
  rw [ppuTicks_effect]
  rfl

end Sys2Proof.Machine
end

