-- ==== Sys2Proof/Laws/Step.lean ====
section
/-! SUPPORT. Sys2Proof/Laws/Step.lean: the shapes of a step, and what the PPU's three clocks of a tick leave. -/

namespace Sys2Proof.Machine

section Ticks
variable (s : State)

@[simp] theorem ppuTicks_pc : (ppuTicks s).pc = s.pc := by rw [ppuTicks_effect]
@[simp] theorem ppuTicks_p : (ppuTicks s).p = s.p := by rw [ppuTicks_effect]
@[simp] theorem ppuTicks_sp : (ppuTicks s).sp = s.sp := by rw [ppuTicks_effect]
@[simp] theorem ppuTicks_a : (ppuTicks s).a = s.a := by rw [ppuTicks_effect]
@[simp] theorem ppuTicks_x : (ppuTicks s).x = s.x := by rw [ppuTicks_effect]
@[simp] theorem ppuTicks_y : (ppuTicks s).y = s.y := by rw [ppuTicks_effect]
@[simp] theorem ppuTicks_rem : (ppuTicks s).rem = s.rem := by rw [ppuTicks_effect]
@[simp] theorem ppuTicks_irq : (ppuTicks s).irq = s.irq := by rw [ppuTicks_effect]
@[simp] theorem ppuTicks_ram : (ppuTicks s).ram = s.ram := by rw [ppuTicks_effect]
@[simp] theorem ppuTicks_config : (ppuTicks s).config = s.config := by rw [ppuTicks_effect]
@[simp] theorem ppuTicks_host : (ppuTicks s).host = s.host := by rw [ppuTicks_effect]
@[simp] theorem ppuTicks_cpuFault : (ppuTicks s).cpuFault = s.cpuFault := by rw [ppuTicks_effect]
@[simp] theorem ppuTicks_ppuFault : (ppuTicks s).ppuFault = s.ppuFault := by rw [ppuTicks_effect]
@[simp] theorem ppuTicks_ppuctrl : (ppuTicks s).ppuctrl = s.ppuctrl := by rw [ppuTicks_effect]

end Ticks

/-- Plain memory holds the same bytes after the PPU's clocks. -/
theorem holdsBytes_ppuTicks {s : State} : ∀ {addr : Word} {bs : List Byte}, HoldsBytes addr bs s →
    HoldsBytes addr bs (ppuTicks s)
  | _, [], _ => trivial
  | _, _ :: _, h => ⟨(plainByte_ppuTicks _ s).trans h.1, holdsBytes_ppuTicks h.2⟩

/-- A step with a call of the host pending. -/
theorem step_host {s : State} {cmd : HostCmd} {rest : List HostCmd} (h : s.host = cmd :: rest) :
    step s = settle { s with host := rest } (hostStrobe cmd { s with host := rest }) := by
  unfold step machineStep
  rw [h]

/-- A step with no call pending and no fault latched is a system tick. -/
theorem step_tick {s : State} (h : s.host = []) (hf : latchedFault s = none) : step s = settle s (systemTick s) := by
  unfold step machineStep
  rw [h]
  dsimp only
  rw [hf]

/-- With no fault latched the operation runs. -/
theorem unlessLatched_none {op : State → Res State} {s : State} (h : latchedFault s = none) :
    unlessLatched op s = op s := by
  unfold unlessLatched
  rw [h]

/-- With a fault latched it does nothing. -/
theorem unlessLatched_some {op : State → Res State} {s : State} {f : Fault} (h : latchedFault s = some f) :
    unlessLatched op s = .next s := by
  unfold unlessLatched
  rw [h]

/-- An operation so guarded that completes either did nothing or ran. -/
theorem unlessLatched_next {op : State → Res State} {s t : State} (h : unlessLatched op s = .next t) :
    t = s ∨ op s = .next t := by
  unfold unlessLatched at h
  split at h
  · cases h; exact .inl rfl
  · exact .inr h

/-- The host's calls that do nothing with a fault latched in either unit (60 R401). -/
theorem hostStrobe_latched {cmd : HostCmd} {s : State} {f : Fault}
    (hc : cmd = .systemTick ∨ cmd = .cpuClock ∨ cmd = .nmiStrobe) (h : latchedFault s = some f) :
    hostStrobe cmd s = .next s := by
  rcases hc with rfl | rfl | rfl
  · exact unlessLatched_some h
  · exact unlessLatched_some h
  · show nmiStrobe s = _
    rw [nmiStrobe, if_neg (by simp [h])]

/-- A step that is a system tick, of a machine with no fault latched. -/
theorem step_ticks {s u : State} (h : Ticks s u) (hf : latchedFault s = none) : step s = settle u (systemTick u) := by
  rcases h with ⟨hh, rfl⟩ | ⟨hh, hu⟩
  · exact step_tick hh hf
  · have hf' : latchedFault u = none := by rw [hu]; exact hf
    rw [step_host hh, ← hu]
    rw [show hostStrobe .systemTick u = _ from unlessLatched_none hf']

/-- A step that makes such a call of a latched machine does nothing. -/
theorem step_call_latched {s : State} {cmd : HostCmd} {rest : List HostCmd} {f : Fault}
    (hc : cmd = .systemTick ∨ cmd = .cpuClock ∨ cmd = .nmiStrobe) (h : s.host = cmd :: rest)
    (hf : latchedFault s = some f) : step s = .next { s with host := rest } := by
  have hf' : latchedFault { s with host := rest } = some f := hf
  rw [step_host h, hostStrobe_latched hc hf']
  rfl

/-- A step with no call pending and a fault latched stops with it. -/
theorem step_latched {s : State} {f : Fault} (h : s.host = []) (hf : latchedFault s = some f) :
    step s = .fault f := by
  unfold step machineStep
  rw [h]
  dsimp only
  rw [hf]

/-- Latching a fault sets the CPU's latch, and the PPU's where its bus raised it. -/
theorem latchFault_cpuFault (f : Fault) (s : State) : (latchFault f s).cpuFault = some f := by
  unfold latchFault
  split <;> rfl

theorem latchFault_ppuFault (f : Fault) (s : State) :
    (latchFault f s).ppuFault = if f.bus = .ppu then some f else s.ppuFault := by
  unfold latchFault
  cases f.bus <;> rfl

theorem latchFault_epoch (f : Fault) (s : State) : (latchFault f s).epoch = s.epoch + 1 := by
  unfold latchFault
  cases f.bus <;> rfl

theorem latchFault_host (f : Fault) (s : State) : (latchFault f s).host = s.host := by
  unfold latchFault
  cases f.bus <;> rfl

end Sys2Proof.Machine
end

