-- ==== Sys2Proof/Laws/Draws.lean ====
section
/-! SUPPORT. Sys2Proof/Laws/Draws.lean: no draw is made twice (spec 00 R10, log 6): every operation leaves the
epoch and moves the draw counter forward only, and a fault begins a new epoch. -/

namespace Sys2Proof.Machine

/-- From `s` to `t` the draws go on: the same epoch, no draw taken back. -/
def DrawsOn (s t : State) : Prop := t.epoch = s.epoch ∧ s.draws ≤ t.draws

theorem DrawsOn.refl (s : State) : DrawsOn s s := ⟨rfl, Nat.le_refl _⟩

theorem DrawsOn.trans {s t u : State} (h : DrawsOn s t) (h' : DrawsOn t u) : DrawsOn s u :=
  ⟨h'.1.trans h.1, Nat.le_trans h.2 h'.2⟩

/-- The same from a state with the same counters. -/
theorem DrawsOn.from {s s' t : State} (h : DrawsOn s' t) (he : s'.epoch = s.epoch) (hd : s'.draws = s.draws) :
    DrawsOn s t := ⟨h.1.trans he, hd ▸ h.2⟩

/-- The same to a state with the same counters. -/
theorem DrawsOn.to {s t t' : State} (h : DrawsOn s t) (he : t'.epoch = t.epoch) (hd : t'.draws = t.draws) :
    DrawsOn s t' := ⟨he.trans h.1, hd.symm ▸ h.2⟩

theorem AfterWrite.drawsOn {s t : State} (h : AfterWrite s t) : DrawsOn s t := by
  rw [AfterWrite] at h
  rw [h]
  exact .refl _

theorem ppuReadReg_drawsOn {i : BitVec 3} {s t : State} {b : Byte} (h : ppuReadReg i s = .next (b, t)) :
    DrawsOn s t := by
  refine ⟨by rw [ppuReadReg_afterRead h], ?_⟩
  unfold ppuReadReg at h
  split at h
  · cases h; exact Nat.le_succ _
  · split at h
    · cases h; exact Nat.le_succ _
    · cases h; exact Nat.le_refl _
    · rw [readPpuData_eq] at h
      cases h; exact Nat.le_refl _
    · cases h; exact Nat.le_succ _

theorem memRead_drawsOn {addr : Word} {s t : State} {b : Byte} (h : memRead addr s = .next (b, t)) :
    DrawsOn s t := by
  unfold memRead at h
  split at h
  case h_4 => exact ppuReadReg_drawsOn h
  case h_5 => cases h; exact ⟨rfl, Nat.le_succ _⟩
  case h_6 => cases h
  all_goals cases h; exact .refl _

theorem read16_drawsOn {addr w : Word} {s t : State} (h : read16 addr s = .next (w, t)) : DrawsOn s t := by
  simp only [read16, andThen_eq_next] at h
  obtain ⟨⟨lo, u⟩, h1, ⟨hi, v⟩, h2, h3⟩ := h
  cases h3
  exact (memRead_drawsOn h1).trans (memRead_drawsOn h2)

theorem resolve_drawsOn {i : Instr} {s s1 : State} {x1 : Nat} (h : resolve i s = .next (x1, s1)) :
    DrawsOn s s1 := by
  by_cases hm : i.entry.mode = .ind
  · obtain ⟨ptr, rfl⟩ := mode_ind hm
    change resolveInd ptr s = _ at h
    simp only [resolveInd, andThen_eq_next] at h
    obtain ⟨⟨lo, t⟩, h1, ⟨hi, u⟩, h2, h3⟩ := h
    cases h3
    exact ((memRead_drawsOn h1).from rfl rfl |>.trans (memRead_drawsOn h2)).to rfl rfl
  · obtain ⟨x, ea, opv, e⟩ := resolve_next hm s
    rw [e] at h
    cases h
    exact .refl _

theorem operand_drawsOn {m : Mode} {s t : State} {b : Byte} (h : operand m s = .next (b, t)) : DrawsOn s t := by
  unfold operand at h
  split at h
  · cases h; exact .refl _
  · exact memRead_drawsOn h

theorem execute_drawsOn {k : Mnemonic} {m : Mode} {s t : State} {x2 : Nat} (h : execute k m s = .next (x2, t)) :
    DrawsOn s t := by
  rcases mnemonic_shapes k with
    hk | hk | hk | hk | hk | hk | rfl | rfl | rfl | rfl | rfl | rfl | rfl | rfl
  · rw [execute_read hk, andThen_eq_next] at h
    obtain ⟨⟨b, u⟩, h1, h2⟩ := h
    cases h2
    refine (operand_drawsOn h1).trans ?_
    cases k <;> exact .refl _
  · rw [execute_store hk, andThen_eq_next] at h
    obtain ⟨u, h1, h2⟩ := h
    cases h2
    exact (memWrite_afterWrite h1).drawsOn
  · rw [execute_shift hk, andThen_eq_next] at h
    obtain ⟨⟨b, u⟩, h1, h2⟩ := h
    rw [andThen_eq_next] at h2
    obtain ⟨v, h2, h3⟩ := h2
    cases h3
    refine (operand_drawsOn h1).trans ?_
    unfold result at h2
    split at h2
    · cases h2; exact .refl _
    · exact (memWrite_afterWrite h2).drawsOn.from rfl rfl
  · rw [execute_incDec hk, andThen_eq_next] at h
    obtain ⟨⟨b, u⟩, h1, h2⟩ := h
    rw [andThen_eq_next] at h2
    obtain ⟨v, h2, h3⟩ := h2
    cases h3
    exact (memRead_drawsOn h1).trans ((memWrite_afterWrite h2).drawsOn.from rfl rfl)
  · rw [execute_register hk] at h
    cases h
    cases k <;> exact .refl _
  · rw [execute_branch hk] at h
    obtain ⟨x, pc, e, -⟩ := branchIf_eq (branchCond k s.p) s
    rw [e] at h
    cases h
    exact .refl _
  · rw [execute_pha] at h; cases h; exact .refl _
  · rw [execute_php] at h; cases h; exact .refl _
  · rw [execute_pla] at h; cases h; exact .refl _
  · rw [execute_plp] at h; cases h; exact .refl _
  · rw [execute_jsr] at h; cases h; exact .refl _
  · rw [execute_rts] at h; cases h; exact .refl _
  · obtain ⟨lo, hi, -, -, e⟩ := execute_brk m s
    rw [e] at h; cases h; exact .refl _
  · rw [execute_rti] at h; cases h; exact .refl _

/-- An instruction that completes. -/
theorem exec_drawsOn {i : Instr} {s t : State} (h : exec i s = .next t) : DrawsOn s t := by
  obtain ⟨x1, s1, x2, s2, h1, h2, rfl⟩ := exec_next h
  exact (((resolve_drawsOn h1).from rfl rfl).trans (execute_drawsOn h2)).to rfl rfl

theorem fetch_drawsOn {i : Instr} {s t : State} (h : fetch s = .next (i, t)) : DrawsOn s t := by
  simp only [fetch, andThen_eq_next] at h
  obtain ⟨⟨op, u⟩, h1, h2⟩ := h
  refine (memRead_drawsOn h1).trans ?_
  dsimp only at h2
  split at h2
  · rename_i tm _
    cases tm <;> simp only [fetchOperand, andThen_eq_next] at h2
    · cases h2; exact .refl _
    · obtain ⟨⟨b, v⟩, h3, h4⟩ := h2
      cases h4; exact memRead_drawsOn h3
    · obtain ⟨⟨b, v⟩, h3, h4⟩ := h2
      cases h4; exact memRead_drawsOn h3
    · obtain ⟨⟨w, v⟩, h3, h4⟩ := h2
      cases h4; exact read16_drawsOn h3
  · unfold unknownOpcode at h2
    split at h2 <;> cases h2

theorem cpuClock_drawsOn {s t : State} (h : cpuClock s = .next t) : DrawsOn s t := by
  unfold cpuClock at h
  split at h
  · simp only [fetchStep, andThen_eq_next] at h
    obtain ⟨⟨i, u⟩, h1, h2⟩ := h
    exact (fetch_drawsOn h1).trans (exec_drawsOn h2)
  · cases h; exact .refl _

theorem enterVector_drawsOn {ret vector : Word} {flags : Byte} {s t : State} (h0 : 0x8000 ≤ vector.toNat)
    (h1 : 0x8000 ≤ (vector + 1#16).toNat) (h : enterVector ret flags vector s = .next t) : DrawsOn s t := by
  obtain ⟨lo, hlo⟩ := plainByte_high_isSome s h0
  obtain ⟨hi, hhi⟩ := plainByte_high_isSome s h1
  rw [enterVector_eq h0 h1 hlo hhi] at h
  cases h; exact .refl _

theorem nmiEntry_drawsOn {s t : State} (h : nmiEntry s = .next t) : DrawsOn s t := by
  simp only [nmiEntry, andThen_eq_next] at h
  obtain ⟨u, h1, h2⟩ := h
  cases h2
  exact (enterVector_drawsOn (by decide) (by decide) h1).to rfl rfl

theorem irqEntry_drawsOn {s t : State} (h : irqEntry s = .next t) : DrawsOn s t := by
  simp only [irqEntry, andThen_eq_next] at h
  obtain ⟨u, h1, h2⟩ := h
  cases h2
  exact (enterVector_drawsOn (by decide) (by decide) h1).to rfl rfl

theorem ppuTicks_drawsOn (s : State) : DrawsOn s (ppuTicks s) := by
  rw [ppuTicks_effect]; exact .refl _

theorem systemTick_drawsOn {s t : State} (h : systemTick s = .next t) : DrawsOn s t := by
  simp only [systemTick, andThen_eq_next] at h
  obtain ⟨u, h1, h2⟩ := h
  refine ((ppuTicks_drawsOn s).trans ?_).trans (cpuClock_drawsOn h2)
  unfold deliver at h1
  split at h1
  · split at h1
    · exact (nmiEntry_drawsOn h1).from rfl rfl
    · split at h1
      · exact irqEntry_drawsOn h1
      · cases h1; exact .refl _
  · cases h1; exact .refl _

theorem pokes_drawsOn : ∀ (cs : List (Word × Byte)) (s : State), DrawsOn s (pokes cs s)
  | [], s => .refl s
  | c :: cs, s => by
    refine DrawsOn.trans ?_ (pokes_drawsOn cs (poke c.1 c.2 s))
    unfold poke
    split <;> exact .refl _

theorem hostStrobe_drawsOn {cmd : HostCmd} {s t : State} (h : hostStrobe cmd s = .next t) : DrawsOn s t := by
  cases cmd <;> simp only [hostStrobe] at h
  case systemTick =>
    rcases unlessLatched_next h with rfl | h
    · exact .refl _
    · exact systemTick_drawsOn h
  case powerUp =>
    simp only [powerUp, andThen_eq_next] at h
    obtain ⟨⟨w, u⟩, h1, h2⟩ := h
    cases h2
    exact ((read16_drawsOn h1).from rfl rfl).to rfl rfl
  case warmReset =>
    unfold warmReset at h
    split at h
    · cases h; exact .refl _
    · simp only [andThen_eq_next] at h
      obtain ⟨⟨w, u⟩, h1, h2⟩ := h
      cases h2
      exact ((read16_drawsOn h1).from rfl rfl).to rfl rfl
  case nmiStrobe =>
    unfold nmiStrobe at h
    split at h
    · exact nmiEntry_drawsOn h
    · cases h; exact .refl _
  case cpuClock =>
    rcases unlessLatched_next h with rfl | h
    · exact .refl _
    · exact cpuClock_drawsOn h
  case load =>
    cases h
    exact (pokes_drawsOn _ _).from rfl rfl
  all_goals cases h; exact .refl _

/-- Over a step, the draws go on, or a fault was latched and a new epoch begins. -/
theorem step_draws {s t : State} (h : step s = .next t) : DrawsOn s t ∨ t.epoch = s.epoch + 1 := by
  have hs : ∀ {u : State} {r : Res State}, (∀ v, r = .next v → DrawsOn u v) → settle u r = .next t →
      DrawsOn u t ∨ t.epoch = u.epoch + 1 := by
    intro u r hr he
    cases r with
    | next v => cases he; exact .inl (hr _ rfl)
    | fault f => cases he; exact .inr (latchFault_epoch f u)
    | refused e => cases he
  cases hh : s.host with
  | cons cmd rest =>
    rw [step_host hh] at h
    exact (hs (u := { s with host := rest }) (fun _ hv => hostStrobe_drawsOn hv) h).imp (·.from rfl rfl) id
  | nil =>
    cases hf : latchedFault s with
    | some f => rw [step_latched hh hf] at h; cases h
    | none =>
      rw [step_tick hh hf] at h
      exact hs (fun _ hv => systemTick_drawsOn hv) h

end Sys2Proof.Machine
end

