-- ==== Sys2Proof/Laws/Inv.lean ====
section
/-! SUPPORT. Sys2Proof/Laws/Inv.lean: every memory operation, every instruction and the PPU's clock keep the
machine's invariant. -/

namespace Sys2Proof.Machine

/-- What the invariant reads of a state, but `rem`. -/
structure SameInvPart (s t : State) : Prop where
  config : t.config = s.config
  cycle : t.cycle = s.cycle
  scanline : t.scanline = s.scanline
  prgRom : t.prgRom = s.prgRom

/-- The memories a step can write are canonical, in their sizes. -/
structure MemoriesOk (s : State) : Prop where
  ram : Memory.wf (ramSize s.config) s.ram
  prgRam : Memory.wf 0x2000 s.prgRam
  chr : Memory.wf 0x2000 s.chr
  nt : Memory.wf s.config.ntSize s.nt
  pal : Memory.wf 32 s.pal ∧ ∀ c ∈ s.pal, palPaired c.1 = false
  oam : Memory.wf 0x100 s.oam

theorem StateInv.memories {s : State} (h : StateInv s) : MemoriesOk s :=
  ⟨h.ram, h.prgRam, h.chr, h.nt, h.pal, h.oam⟩

theorem SameInvPart.refl (s : State) : SameInvPart s s := ⟨rfl, rfl, rfl, rfl⟩

theorem SameInvPart.trans {s t u : State} (h : SameInvPart s t) (h' : SameInvPart t u) : SameInvPart s u :=
  ⟨h'.config.trans h.config, h'.cycle.trans h.cycle, h'.scanline.trans h.scanline, h'.prgRom.trans h.prgRom⟩

theorem StateInv.of_parts {s t : State} (h : StateInv s) (hs : SameInvPart s t) (hm : MemoriesOk t)
    (hr : t.rem ≤ remMax s.config) : StateInv t where
  config := by rw [hs.config]; exact h.config
  rem := by rw [hs.config]; exact hr
  cycle := by rw [hs.cycle]; exact h.cycle
  scanline := by rw [hs.scanline]; exact h.scanline
  ram := hm.ram
  prgRam := hm.prgRam
  prgRom := by rw [hs.config, hs.prgRom]; exact h.prgRom
  chr := hm.chr
  nt := hm.nt
  pal := hm.pal
  oam := hm.oam

/-- Both parts, for one operation. -/
def Keeps (s t : State) : Prop := SameInvPart s t ∧ (s.config.WellFormed = true → MemoriesOk s → MemoriesOk t)

theorem Keeps.refl (s : State) : Keeps s s := ⟨.refl s, fun _ h => h⟩

theorem Keeps.trans {s t u : State} (h : Keeps s t) (h' : Keeps t u) : Keeps s u :=
  ⟨h.1.trans h'.1, fun hc hm => h'.2 (by rw [h.1.config]; exact hc) (h.2 hc hm)⟩

/-- A state with the same memories, counters, program ROM and configuration. -/
theorem Keeps.of_eq {s t : State} (hc : t.config = s.config) (h1 : t.cycle = s.cycle)
    (h2 : t.scanline = s.scanline) (h3 : t.prgRom = s.prgRom) (h4 : t.ram = s.ram) (h5 : t.prgRam = s.prgRam)
    (h6 : t.chr = s.chr) (h7 : t.nt = s.nt) (h8 : t.pal = s.pal) (h9 : t.oam = s.oam) : Keeps s t :=
  ⟨⟨hc, h1, h2, h3⟩, fun _ h =>
    ⟨by rw [hc, h4]; exact h.ram, by rw [h5]; exact h.prgRam, by rw [h6]; exact h.chr,
      by rw [hc, h7]; exact h.nt, by rw [h8]; exact h.pal, by rw [h9]; exact h.oam⟩⟩

/-- A state with RAM written, within the stack or zero page. -/
theorem Keeps.ram {s t : State} {k : Nat} {b : Byte} (hk : k < 0x200) (h : t = { s with ram := s.ram.write k b }) :
    Keeps s t := by
  subst h
  refine ⟨⟨rfl, rfl, rfl, rfl⟩, fun _ h => ⟨h.ram.write ?_ b, h.prgRam, h.chr, h.nt, h.pal, h.oam⟩⟩
  unfold ramSize
  split <;> omega

theorem AfterRead.keeps {s t : State} (h : AfterRead s t) : Keeps s t := by
  rw [AfterRead] at h
  rw [h]
  exact .of_eq rfl rfl rfl rfl rfl rfl rfl rfl rfl rfl

/-! ## Writes -/

theorem ntSize_pos {c : Config} (h : c.WellFormed = true) : 0 < c.ntSize := by
  simp only [Config.WellFormed, Bool.and_eq_true, decide_eq_true_eq] at h
  omega

/-- The cells of the PPU bus are within their memories. -/
theorem ppuRoute_bound (c : Config) (v : PpuAddr) :
    (∀ i, ppuRoute c v = .chr i → i < 0x2000) ∧ (∀ i, ppuRoute c v = .nt i → 0 < c.ntSize → i < c.ntSize) ∧
      ∀ i, ppuRoute c v = .pal i → i = palIndex v := by
  rcases Nat.lt_or_ge v.toNat 0x2000 with h | h
  · rw [ppuRoute_chr h]
    exact ⟨fun i e => PpuPlace.chr.inj e ▸ h, nofun, nofun⟩
  · rcases Nat.lt_or_ge v.toNat 0x3000 with h' | h'
    · rw [ppuRoute_nt h h']
      exact ⟨nofun, fun i e hp => PpuPlace.nt.inj e ▸ Nat.mod_lt _ hp, nofun⟩
    · rcases Nat.lt_or_ge v.toNat 0x3F00 with h'' | h''
      · rw [ppuRoute_mirror h' h'']
        exact ⟨nofun, fun i e hp => PpuPlace.nt.inj e ▸ Nat.mod_lt _ hp, nofun⟩
      · rw [ppuRoute_pal h'']
        exact ⟨nofun, nofun, fun i e => (PpuPlace.pal.inj e).symm⟩

theorem ppuWrite_keeps {v : PpuAddr} {b : Byte} {s t : State} (h : ppuWrite (v.setWidth 16) b s = .next t) :
    Keeps s t := by
  rw [ppuWrite_eq] at h
  split at h
  · rename_i i hi
    have hlt := (ppuRoute_bound s.config v).1 i hi
    split at h
    · cases h
      exact ⟨⟨rfl, rfl, rfl, rfl⟩, fun _ h => ⟨h.ram, h.prgRam, h.chr.write hlt b, h.nt, h.pal, h.oam⟩⟩
    · simp at h
  · rename_i i hi
    cases h
    refine ⟨⟨rfl, rfl, rfl, rfl⟩, fun hc h => ⟨h.ram, h.prgRam, h.chr, h.nt.write ?_ b, h.pal, h.oam⟩⟩
    exact (ppuRoute_bound s.config v).2.1 i hi (ntSize_pos hc)
  · rename_i i hi
    cases h
    have hp := (ppuRoute_bound s.config v).2.2 i hi
    subst hp
    obtain ⟨h1, h2⟩ := palIndex_cell v
    exact ⟨⟨rfl, rfl, rfl, rfl⟩, fun _ h => ⟨h.ram, h.prgRam, h.chr, h.nt,
      ⟨h.pal.1.write h1 b, Memory.forall_write (P := fun k => palPaired k = false) h.pal.2 h2⟩, h.oam⟩⟩

theorem ppuWriteReg_keeps {i : BitVec 3} {b : Byte} {s t : State} (h : ppuWriteReg i b s = .next t) :
    Keeps s t := by
  unfold ppuWriteReg at h
  split at h
  · cases h; exact .refl s
  · split at h
    case _ => cases h; exact .of_eq rfl rfl rfl rfl rfl rfl rfl rfl rfl rfl
    case _ => cases h; exact .of_eq rfl rfl rfl rfl rfl rfl rfl rfl rfl rfl
    case _ => cases h; exact .of_eq rfl rfl rfl rfl rfl rfl rfl rfl rfl rfl
    case _ =>
      cases h
      exact ⟨⟨rfl, rfl, rfl, rfl⟩, fun _ h =>
        ⟨h.ram, h.prgRam, h.chr, h.nt, h.pal, h.oam.write s.oamAddr.isLt b⟩⟩
    case _ =>
      cases h
      unfold writeScroll
      split <;> exact .of_eq rfl rfl rfl rfl rfl rfl rfl rfl rfl rfl
    case _ =>
      cases h
      unfold writePpuAddr
      split <;> exact .of_eq rfl rfl rfl rfl rfl rfl rfl rfl rfl rfl
    case _ =>
      simp only [writePpuData, andThen_eq_next] at h
      obtain ⟨u, hu, h⟩ := h
      cases h
      exact (ppuWrite_keeps hu).trans (.of_eq rfl rfl rfl rfl rfl rfl rfl rfl rfl rfl)
    case _ => cases h; exact .refl s

/-- The index of RAM an address reaches is within its size. -/
theorem route_ram_lt {c : Config} {addr : Word} {i : Nat} (h : route c addr = .ram i) : i < ramSize c := by
  have hlt := addr.isLt
  unfold route at h
  unfold ramSize
  cases hb : c.bus <;> rw [hb] at h
  · cases h; exact hlt
  · simp only [nromRoute] at h
    split at h
    · cases h; exact Nat.mod_lt _ (by omega)
    · split at h
      · simp at h
      · split at h
        · simp at h
        · split at h
          · simp at h
          · split at h
            · split at h <;> simp at h
            · simp at h

/-- The index of cartridge RAM an address reaches is within its size. -/
theorem route_prgRam_lt {c : Config} {addr : Word} {i : Nat} (h : route c addr = .prgRam i) : i < 0x2000 := by
  unfold route at h
  cases hb : c.bus <;> rw [hb] at h
  · simp at h
  · simp only [nromRoute] at h
    split at h
    · simp at h
    · split at h
      · simp at h
      · split at h
        · simp at h
        · split at h
          · simp at h
          · split at h
            · split at h
              · have e := Place.prgRam.inj h
                omega
              · simp at h
            · simp at h

/-- A CPU write keeps the memories canonical. -/
theorem memWrite_keeps {addr : Word} {b : Byte} {s t : State} (h : memWrite addr b s = .next t) : Keeps s t := by
  unfold memWrite at h
  split at h
  · rename_i i hi
    cases h
    exact ⟨⟨rfl, rfl, rfl, rfl⟩, fun _ h =>
      ⟨h.ram.write (route_ram_lt hi) b, h.prgRam, h.chr, h.nt, h.pal, h.oam⟩⟩
  · rename_i i hi
    cases h
    exact ⟨⟨rfl, rfl, rfl, rfl⟩, fun _ h =>
      ⟨h.ram, h.prgRam.write (route_prgRam_lt hi) b, h.chr, h.nt, h.pal, h.oam⟩⟩
  · simp at h
  · exact ppuWriteReg_keeps h
  · cases h; exact .refl s
  · simp at h

/-- The stack bytes of an exception entry. -/
theorem entryRam_keeps (ret : Word) (flags : Byte) (s : State) : Keeps s { s with ram := entryRam ret flags s } := by
  have h1 := s.sp.isLt
  have h2 := (s.sp - 1#8).isLt
  have h3 := (s.sp - 2#8).isLt
  exact ((Keeps.ram (show 0x100 + s.sp.toNat < 0x200 by omega) rfl).trans
    (Keeps.ram (show 0x100 + (s.sp - 1#8).toNat < 0x200 by omega) rfl)).trans
    (Keeps.ram (show 0x100 + (s.sp - 2#8).toNat < 0x200 by omega) rfl)

/-! ## Instructions -/

theorem resolve_keeps {i : Instr} {s s1 : State} {x1 : Nat} (h : Resolves i s x1 s1) : Keeps s s1 := by
  have e := resolve_effect h
  rw [begun_eq] at e
  rw [e]
  exact .of_eq rfl rfl rfl rfl rfl rfl rfl rfl rfl rfl

theorem readEffect_keeps (k : Mnemonic) (b : Byte) (s : State) : Keeps s (readEffect k b s) := by
  cases k <;> exact .of_eq rfl rfl rfl rfl rfl rfl rfl rfl rfl rfl

theorem registerEffect_keeps (k : Mnemonic) (s : State) : Keeps s (registerEffect k s) := by
  cases k <;> exact .of_eq rfl rfl rfl rfl rfl rfl rfl rfl rfl rfl

/-- What every handler keeps. -/
theorem execute_keeps {k : Mnemonic} {m : Mode} {s t : State} {x2 : Nat} (h : execute k m s = .next (x2, t)) :
    Keeps s t ∧ x2 ≤ 2 ∧ (isBranch k = false → x2 = 0) := by
  have hp : ∀ (s : State) p, Keeps s { s with p := p } := fun _ _ => .of_eq rfl rfl rfl rfl rfl rfl rfl rfl rfl rfl
  rcases mnemonic_shapes k with
    hk | hk | hk | hk | hk | hk | rfl | rfl | rfl | rfl | rfl | rfl | rfl | rfl
  · rw [execute_read hk, andThen_eq_next] at h
    obtain ⟨⟨b, u⟩, h1, h2⟩ := h
    cases h2
    exact ⟨(operand_afterRead h1).keeps.trans (readEffect_keeps k b u), by omega, fun _ => rfl⟩
  · rw [execute_store hk, andThen_eq_next] at h
    obtain ⟨u, h1, h2⟩ := h
    cases h2
    exact ⟨memWrite_keeps h1, by omega, fun _ => rfl⟩
  · rw [execute_shift hk, andThen_eq_next] at h
    obtain ⟨⟨b, u⟩, h1, h2⟩ := h
    rw [andThen_eq_next] at h2
    obtain ⟨v, h2, h3⟩ := h2
    cases h3
    refine ⟨((operand_afterRead h1).keeps.trans (hp u (modifiedFlags k b u.p))).trans ?_, by omega, fun _ => rfl⟩
    unfold result at h2
    split at h2
    · cases h2; exact .of_eq rfl rfl rfl rfl rfl rfl rfl rfl rfl rfl
    · exact memWrite_keeps h2
  · rw [execute_incDec hk, andThen_eq_next] at h
    obtain ⟨⟨b, u⟩, h1, h2⟩ := h
    rw [andThen_eq_next] at h2
    obtain ⟨v, h2, h3⟩ := h2
    cases h3
    exact ⟨((memRead_afterRead h1).keeps.trans (hp u (modifiedFlags k b u.p))).trans (memWrite_keeps h2), by omega, fun _ => rfl⟩
  · rw [execute_register hk] at h
    cases h
    exact ⟨registerEffect_keeps k s, by omega, fun _ => rfl⟩
  · rw [execute_branch hk] at h
    obtain ⟨x, pc, e, hx⟩ := branchIf_eq (branchCond k s.p) s
    rw [e] at h
    cases h
    exact ⟨.of_eq rfl rfl rfl rfl rfl rfl rfl rfl rfl rfl, hx, fun hn => absurd (hn.symm.trans hk) (by decide)⟩
  · rw [execute_pha] at h
    cases h
    have h1 := s.sp.isLt
    exact ⟨(Keeps.ram (show 0x100 + s.sp.toNat < 0x200 by omega) rfl).trans
      (.of_eq rfl rfl rfl rfl rfl rfl rfl rfl rfl rfl), by omega, fun _ => rfl⟩
  · rw [execute_php] at h
    cases h
    have h1 := s.sp.isLt
    exact ⟨(Keeps.ram (show 0x100 + s.sp.toNat < 0x200 by omega) rfl).trans
      (.of_eq rfl rfl rfl rfl rfl rfl rfl rfl rfl rfl), by omega, fun _ => rfl⟩
  · rw [execute_pla] at h
    cases h
    exact ⟨.of_eq rfl rfl rfl rfl rfl rfl rfl rfl rfl rfl, by omega, fun _ => rfl⟩
  · rw [execute_plp] at h
    cases h
    exact ⟨.of_eq rfl rfl rfl rfl rfl rfl rfl rfl rfl rfl, by omega, fun _ => rfl⟩
  · rw [execute_jsr] at h
    cases h
    have h1 := s.sp.isLt
    have h2 := (s.sp - 1#8).isLt
    exact ⟨((Keeps.ram (show 0x100 + s.sp.toNat < 0x200 by omega) rfl).trans
      (Keeps.ram (show 0x100 + (s.sp - 1#8).toNat < 0x200 by omega) rfl)).trans
      (.of_eq rfl rfl rfl rfl rfl rfl rfl rfl rfl rfl), by omega, fun _ => rfl⟩
  · rw [execute_rts] at h
    cases h
    exact ⟨.of_eq rfl rfl rfl rfl rfl rfl rfl rfl rfl rfl, by omega, fun _ => rfl⟩
  · obtain ⟨lo, hi, -, -, e⟩ := execute_brk m s
    rw [e] at h
    cases h
    exact ⟨(entryRam_keeps _ _ s).trans (.of_eq rfl rfl rfl rfl rfl rfl rfl rfl rfl rfl), by omega, fun _ => rfl⟩
  · rw [execute_rti] at h
    cases h
    exact ⟨.of_eq rfl rfl rfl rfl rfl rfl rfl rfl rfl rfl, by omega, fun _ => rfl⟩

/-- A resolver adds one cycle at most. -/
theorem resolve_cycle {i : Instr} {s s1 : State} {x1 : Nat} (h : Resolves i s x1 s1) : x1 ≤ 1 := by
  have hr := resolve_by_mode i (begun i s)
  rw [show resolve i (begun i s) = .next (x1, s1) from h] at hr
  have hp : ∀ a b : Word, pageCross a b ≤ 1 := by
    intro a b
    unfold pageCross
    split <;> omega
  by_cases hm : i.entry.mode = .ind
  · obtain ⟨ptr, rfl⟩ := mode_ind hm
    have h' : resolveInd ptr (begun (.jmpInd ptr) s) = .next (x1, s1) := h
    simp only [resolveInd, andThen_eq_next] at h'
    obtain ⟨a, -, b, -, e⟩ := h'
    cases e
    omega
  · generalize i.entry.mode = m at hr hm
    generalize i.operand = o at hr
    cases m <;> cases o <;> simp only [resolveBy, Option.some.injEq, reduceCtorEq] at hr
    case ind.word => exact absurd rfl hm
    case abx.word => cases hr; exact hp _ _
    case aby.word => cases hr; exact hp _ _
    case izy.byte => rw [resolveIzy_eq] at hr; cases hr; exact hp _ _
    case izx.byte => rw [resolveIzx_eq] at hr; cases hr; omega
    all_goals cases hr; omega

/-- The most cycles a row can leave. -/
theorem entry_cycles (i : Instr) :
    i.entry.base + (if i.entry.extra = .page then 1 else 0) + (if isBranch i.entry.mnemonic then 2 else 0) ≤ 7 := by
  cases i <;> exact Nat.le_of_ble_eq_true rfl

/-- Every instruction keeps what the invariant reads, and leaves at most six cycles. -/
theorem exec_keeps {i : Instr} {s t : State} (h : exec i s = .next t) : Keeps s t ∧ t.rem ≤ 6 := by
  obtain ⟨x1, s1, x2, s2, h1, h2, rfl⟩ := exec_next h
  obtain ⟨k2, hx2, hb⟩ := execute_keeps h2
  have hx1 := resolve_cycle h1
  have hc := entry_cycles i
  refine ⟨((resolve_keeps h1).trans k2).trans (.of_eq rfl rfl rfl rfl rfl rfl rfl rfl rfl rfl), ?_⟩
  rw [finishDispatch_eq]
  dsimp only
  cases hbr : isBranch i.entry.mnemonic
  · have hb0 := hb hbr
    rw [hbr] at hc
    by_cases hp : i.entry.extra = .page <;> simp only [hp, if_true, if_false, Bool.false_eq_true] at hc ⊢ <;> omega
  · rw [hbr] at hc
    by_cases hp : i.entry.extra = .page <;> simp only [hp, if_true, if_false] at hc ⊢ <;> omega

theorem exec_inv {i : Instr} {s t : State} (hi : StateInv s) (h : exec i s = .next t) : StateInv t := by
  obtain ⟨k, hr⟩ := exec_keeps h
  exact hi.of_parts k.1 (k.2 hi.config hi.memories) (Nat.le_trans hr (Nat.le_max_left _ _))

/-! ## The PPU's clock -/

theorem ppuClock_inv {s : State} (hi : StateInv s) : StateInv (ppuClock s) := by
  unfold ppuClock
  split
  · exact hi
  · rw [ppuEvents_eq, ppuPixel_eq, ppuAdvance_eq]
    have hc := hi.cycle
    have hl := hi.scanline
    refine ⟨hi.config, hi.rem, ?_, ?_, hi.ram, hi.prgRam, hi.prgRom, hi.chr, hi.nt, hi.pal, hi.oam⟩
    · dsimp only
      split <;> omega
    · dsimp only
      split
      · split <;> omega
      · exact hl

end Sys2Proof.Machine
end

