-- ==== Sys2Proof/Laws/PerInstr.lean ====
section
/-! SUPPORT. Sys2Proof/Laws/PerInstr.lean: for every instruction, its opcode's row of the opcode table builds
it from its own operand. -/

namespace Sys2Proof.Laws.Row

/-- The row of the instruction's opcode byte makes the instruction, of the format its operand has. -/
def Statement (i : Instr) : Prop :=
  match templateOf i.entry.opcode with
  | none => False
  | some (.imp j) => i.operand = .none ∧ j = i
  | some (.byte f) => ∃ b, i.operand = .byte b ∧ f b = i
  | some (.rel f) => ∃ d, i.operand = .rel d ∧ f d = i
  | some (.word f) => ∃ w, i.operand = .word w ∧ f w = i

theorem ldaImm (v : Byte) : Statement (.ldaImm v) := ⟨v, rfl, rfl⟩
theorem ldaZp (zp : Byte) : Statement (.ldaZp zp) := ⟨zp, rfl, rfl⟩
theorem ldaZpx (zp : Byte) : Statement (.ldaZpx zp) := ⟨zp, rfl, rfl⟩
theorem ldaAbs (a : Word) : Statement (.ldaAbs a) := ⟨a, rfl, rfl⟩
theorem ldaAbx (a : Word) : Statement (.ldaAbx a) := ⟨a, rfl, rfl⟩
theorem ldaAby (a : Word) : Statement (.ldaAby a) := ⟨a, rfl, rfl⟩
theorem ldaIzx (zp : Byte) : Statement (.ldaIzx zp) := ⟨zp, rfl, rfl⟩
theorem ldaIzy (zp : Byte) : Statement (.ldaIzy zp) := ⟨zp, rfl, rfl⟩
theorem ldxImm (v : Byte) : Statement (.ldxImm v) := ⟨v, rfl, rfl⟩
theorem ldxZp (zp : Byte) : Statement (.ldxZp zp) := ⟨zp, rfl, rfl⟩
theorem ldxZpy (zp : Byte) : Statement (.ldxZpy zp) := ⟨zp, rfl, rfl⟩
theorem ldxAbs (a : Word) : Statement (.ldxAbs a) := ⟨a, rfl, rfl⟩
theorem ldxAby (a : Word) : Statement (.ldxAby a) := ⟨a, rfl, rfl⟩
theorem ldyImm (v : Byte) : Statement (.ldyImm v) := ⟨v, rfl, rfl⟩
theorem ldyZp (zp : Byte) : Statement (.ldyZp zp) := ⟨zp, rfl, rfl⟩
theorem ldyZpx (zp : Byte) : Statement (.ldyZpx zp) := ⟨zp, rfl, rfl⟩
theorem ldyAbs (a : Word) : Statement (.ldyAbs a) := ⟨a, rfl, rfl⟩
theorem ldyAbx (a : Word) : Statement (.ldyAbx a) := ⟨a, rfl, rfl⟩
theorem staZp (zp : Byte) : Statement (.staZp zp) := ⟨zp, rfl, rfl⟩
theorem staZpx (zp : Byte) : Statement (.staZpx zp) := ⟨zp, rfl, rfl⟩
theorem staAbs (a : Word) : Statement (.staAbs a) := ⟨a, rfl, rfl⟩
theorem staAbx (a : Word) : Statement (.staAbx a) := ⟨a, rfl, rfl⟩
theorem staAby (a : Word) : Statement (.staAby a) := ⟨a, rfl, rfl⟩
theorem staIzx (zp : Byte) : Statement (.staIzx zp) := ⟨zp, rfl, rfl⟩
theorem staIzy (zp : Byte) : Statement (.staIzy zp) := ⟨zp, rfl, rfl⟩
theorem stxZp (zp : Byte) : Statement (.stxZp zp) := ⟨zp, rfl, rfl⟩
theorem stxZpy (zp : Byte) : Statement (.stxZpy zp) := ⟨zp, rfl, rfl⟩
theorem stxAbs (a : Word) : Statement (.stxAbs a) := ⟨a, rfl, rfl⟩
theorem styZp (zp : Byte) : Statement (.styZp zp) := ⟨zp, rfl, rfl⟩
theorem styZpx (zp : Byte) : Statement (.styZpx zp) := ⟨zp, rfl, rfl⟩
theorem styAbs (a : Word) : Statement (.styAbs a) := ⟨a, rfl, rfl⟩
theorem tax : Statement .tax := ⟨rfl, rfl⟩
theorem tay : Statement .tay := ⟨rfl, rfl⟩
theorem txa : Statement .txa := ⟨rfl, rfl⟩
theorem tya : Statement .tya := ⟨rfl, rfl⟩
theorem tsx : Statement .tsx := ⟨rfl, rfl⟩
theorem txs : Statement .txs := ⟨rfl, rfl⟩
theorem adcImm (v : Byte) : Statement (.adcImm v) := ⟨v, rfl, rfl⟩
theorem adcZp (zp : Byte) : Statement (.adcZp zp) := ⟨zp, rfl, rfl⟩
theorem adcZpx (zp : Byte) : Statement (.adcZpx zp) := ⟨zp, rfl, rfl⟩
theorem adcAbs (a : Word) : Statement (.adcAbs a) := ⟨a, rfl, rfl⟩
theorem adcAbx (a : Word) : Statement (.adcAbx a) := ⟨a, rfl, rfl⟩
theorem adcAby (a : Word) : Statement (.adcAby a) := ⟨a, rfl, rfl⟩
theorem adcIzx (zp : Byte) : Statement (.adcIzx zp) := ⟨zp, rfl, rfl⟩
theorem adcIzy (zp : Byte) : Statement (.adcIzy zp) := ⟨zp, rfl, rfl⟩
theorem sbcImm (v : Byte) : Statement (.sbcImm v) := ⟨v, rfl, rfl⟩
theorem sbcZp (zp : Byte) : Statement (.sbcZp zp) := ⟨zp, rfl, rfl⟩
theorem sbcZpx (zp : Byte) : Statement (.sbcZpx zp) := ⟨zp, rfl, rfl⟩
theorem sbcAbs (a : Word) : Statement (.sbcAbs a) := ⟨a, rfl, rfl⟩
theorem sbcAbx (a : Word) : Statement (.sbcAbx a) := ⟨a, rfl, rfl⟩
theorem sbcAby (a : Word) : Statement (.sbcAby a) := ⟨a, rfl, rfl⟩
theorem sbcIzx (zp : Byte) : Statement (.sbcIzx zp) := ⟨zp, rfl, rfl⟩
theorem sbcIzy (zp : Byte) : Statement (.sbcIzy zp) := ⟨zp, rfl, rfl⟩
theorem andImm (v : Byte) : Statement (.andImm v) := ⟨v, rfl, rfl⟩
theorem andZp (zp : Byte) : Statement (.andZp zp) := ⟨zp, rfl, rfl⟩
theorem andZpx (zp : Byte) : Statement (.andZpx zp) := ⟨zp, rfl, rfl⟩
theorem andAbs (a : Word) : Statement (.andAbs a) := ⟨a, rfl, rfl⟩
theorem andAbx (a : Word) : Statement (.andAbx a) := ⟨a, rfl, rfl⟩
theorem andAby (a : Word) : Statement (.andAby a) := ⟨a, rfl, rfl⟩
theorem andIzx (zp : Byte) : Statement (.andIzx zp) := ⟨zp, rfl, rfl⟩
theorem andIzy (zp : Byte) : Statement (.andIzy zp) := ⟨zp, rfl, rfl⟩
theorem oraImm (v : Byte) : Statement (.oraImm v) := ⟨v, rfl, rfl⟩
theorem oraZp (zp : Byte) : Statement (.oraZp zp) := ⟨zp, rfl, rfl⟩
theorem oraZpx (zp : Byte) : Statement (.oraZpx zp) := ⟨zp, rfl, rfl⟩
theorem oraAbs (a : Word) : Statement (.oraAbs a) := ⟨a, rfl, rfl⟩
theorem oraAbx (a : Word) : Statement (.oraAbx a) := ⟨a, rfl, rfl⟩
theorem oraAby (a : Word) : Statement (.oraAby a) := ⟨a, rfl, rfl⟩
theorem oraIzx (zp : Byte) : Statement (.oraIzx zp) := ⟨zp, rfl, rfl⟩
theorem oraIzy (zp : Byte) : Statement (.oraIzy zp) := ⟨zp, rfl, rfl⟩
theorem eorImm (v : Byte) : Statement (.eorImm v) := ⟨v, rfl, rfl⟩
theorem eorZp (zp : Byte) : Statement (.eorZp zp) := ⟨zp, rfl, rfl⟩
theorem eorZpx (zp : Byte) : Statement (.eorZpx zp) := ⟨zp, rfl, rfl⟩
theorem eorAbs (a : Word) : Statement (.eorAbs a) := ⟨a, rfl, rfl⟩
theorem eorAbx (a : Word) : Statement (.eorAbx a) := ⟨a, rfl, rfl⟩
theorem eorAby (a : Word) : Statement (.eorAby a) := ⟨a, rfl, rfl⟩
theorem eorIzx (zp : Byte) : Statement (.eorIzx zp) := ⟨zp, rfl, rfl⟩
theorem eorIzy (zp : Byte) : Statement (.eorIzy zp) := ⟨zp, rfl, rfl⟩
theorem cmpImm (v : Byte) : Statement (.cmpImm v) := ⟨v, rfl, rfl⟩
theorem cmpZp (zp : Byte) : Statement (.cmpZp zp) := ⟨zp, rfl, rfl⟩
theorem cmpZpx (zp : Byte) : Statement (.cmpZpx zp) := ⟨zp, rfl, rfl⟩
theorem cmpAbs (a : Word) : Statement (.cmpAbs a) := ⟨a, rfl, rfl⟩
theorem cmpAbx (a : Word) : Statement (.cmpAbx a) := ⟨a, rfl, rfl⟩
theorem cmpAby (a : Word) : Statement (.cmpAby a) := ⟨a, rfl, rfl⟩
theorem cmpIzx (zp : Byte) : Statement (.cmpIzx zp) := ⟨zp, rfl, rfl⟩
theorem cmpIzy (zp : Byte) : Statement (.cmpIzy zp) := ⟨zp, rfl, rfl⟩
theorem cpxImm (v : Byte) : Statement (.cpxImm v) := ⟨v, rfl, rfl⟩
theorem cpxZp (zp : Byte) : Statement (.cpxZp zp) := ⟨zp, rfl, rfl⟩
theorem cpxAbs (a : Word) : Statement (.cpxAbs a) := ⟨a, rfl, rfl⟩
theorem cpyImm (v : Byte) : Statement (.cpyImm v) := ⟨v, rfl, rfl⟩
theorem cpyZp (zp : Byte) : Statement (.cpyZp zp) := ⟨zp, rfl, rfl⟩
theorem cpyAbs (a : Word) : Statement (.cpyAbs a) := ⟨a, rfl, rfl⟩
theorem bitZp (zp : Byte) : Statement (.bitZp zp) := ⟨zp, rfl, rfl⟩
theorem bitAbs (a : Word) : Statement (.bitAbs a) := ⟨a, rfl, rfl⟩
theorem aslAcc : Statement .aslAcc := ⟨rfl, rfl⟩
theorem aslZp (zp : Byte) : Statement (.aslZp zp) := ⟨zp, rfl, rfl⟩
theorem aslZpx (zp : Byte) : Statement (.aslZpx zp) := ⟨zp, rfl, rfl⟩
theorem aslAbs (a : Word) : Statement (.aslAbs a) := ⟨a, rfl, rfl⟩
theorem aslAbx (a : Word) : Statement (.aslAbx a) := ⟨a, rfl, rfl⟩
theorem lsrAcc : Statement .lsrAcc := ⟨rfl, rfl⟩
theorem lsrZp (zp : Byte) : Statement (.lsrZp zp) := ⟨zp, rfl, rfl⟩
theorem lsrZpx (zp : Byte) : Statement (.lsrZpx zp) := ⟨zp, rfl, rfl⟩
theorem lsrAbs (a : Word) : Statement (.lsrAbs a) := ⟨a, rfl, rfl⟩
theorem lsrAbx (a : Word) : Statement (.lsrAbx a) := ⟨a, rfl, rfl⟩
theorem rolAcc : Statement .rolAcc := ⟨rfl, rfl⟩
theorem rolZp (zp : Byte) : Statement (.rolZp zp) := ⟨zp, rfl, rfl⟩
theorem rolZpx (zp : Byte) : Statement (.rolZpx zp) := ⟨zp, rfl, rfl⟩
theorem rolAbs (a : Word) : Statement (.rolAbs a) := ⟨a, rfl, rfl⟩
theorem rolAbx (a : Word) : Statement (.rolAbx a) := ⟨a, rfl, rfl⟩
theorem rorAcc : Statement .rorAcc := ⟨rfl, rfl⟩
theorem rorZp (zp : Byte) : Statement (.rorZp zp) := ⟨zp, rfl, rfl⟩
theorem rorZpx (zp : Byte) : Statement (.rorZpx zp) := ⟨zp, rfl, rfl⟩
theorem rorAbs (a : Word) : Statement (.rorAbs a) := ⟨a, rfl, rfl⟩
theorem rorAbx (a : Word) : Statement (.rorAbx a) := ⟨a, rfl, rfl⟩
theorem incZp (zp : Byte) : Statement (.incZp zp) := ⟨zp, rfl, rfl⟩
theorem incZpx (zp : Byte) : Statement (.incZpx zp) := ⟨zp, rfl, rfl⟩
theorem incAbs (a : Word) : Statement (.incAbs a) := ⟨a, rfl, rfl⟩
theorem incAbx (a : Word) : Statement (.incAbx a) := ⟨a, rfl, rfl⟩
theorem decZp (zp : Byte) : Statement (.decZp zp) := ⟨zp, rfl, rfl⟩
theorem decZpx (zp : Byte) : Statement (.decZpx zp) := ⟨zp, rfl, rfl⟩
theorem decAbs (a : Word) : Statement (.decAbs a) := ⟨a, rfl, rfl⟩
theorem decAbx (a : Word) : Statement (.decAbx a) := ⟨a, rfl, rfl⟩
theorem inx : Statement .inx := ⟨rfl, rfl⟩
theorem iny : Statement .iny := ⟨rfl, rfl⟩
theorem dex : Statement .dex := ⟨rfl, rfl⟩
theorem dey : Statement .dey := ⟨rfl, rfl⟩
theorem bcc (d : Int) : Statement (.bcc d) := ⟨d, rfl, rfl⟩
theorem bcs (d : Int) : Statement (.bcs d) := ⟨d, rfl, rfl⟩
theorem beq (d : Int) : Statement (.beq d) := ⟨d, rfl, rfl⟩
theorem bne (d : Int) : Statement (.bne d) := ⟨d, rfl, rfl⟩
theorem bmi (d : Int) : Statement (.bmi d) := ⟨d, rfl, rfl⟩
theorem bpl (d : Int) : Statement (.bpl d) := ⟨d, rfl, rfl⟩
theorem bvc (d : Int) : Statement (.bvc d) := ⟨d, rfl, rfl⟩
theorem bvs (d : Int) : Statement (.bvs d) := ⟨d, rfl, rfl⟩
theorem jmpAbs (a : Word) : Statement (.jmpAbs a) := ⟨a, rfl, rfl⟩
theorem jmpInd (a : Word) : Statement (.jmpInd a) := ⟨a, rfl, rfl⟩
theorem jsr (a : Word) : Statement (.jsr a) := ⟨a, rfl, rfl⟩
theorem rts : Statement .rts := ⟨rfl, rfl⟩
theorem pha : Statement .pha := ⟨rfl, rfl⟩
theorem php : Statement .php := ⟨rfl, rfl⟩
theorem pla : Statement .pla := ⟨rfl, rfl⟩
theorem plp : Statement .plp := ⟨rfl, rfl⟩
theorem clc : Statement .clc := ⟨rfl, rfl⟩
theorem sec : Statement .sec := ⟨rfl, rfl⟩
theorem cli : Statement .cli := ⟨rfl, rfl⟩
theorem sei : Statement .sei := ⟨rfl, rfl⟩
theorem cld : Statement .cld := ⟨rfl, rfl⟩
theorem sed : Statement .sed := ⟨rfl, rfl⟩
theorem clv : Statement .clv := ⟨rfl, rfl⟩
theorem nop : Statement .nop := ⟨rfl, rfl⟩
theorem brk : Statement .brk := ⟨rfl, rfl⟩
theorem rti : Statement .rti := ⟨rfl, rfl⟩

end Sys2Proof.Laws.Row
end

