-- ==== Sys2Proof/Laws/State.lean ====
section
/-! SUPPORT. Sys2Proof/Laws/State.lean: for each named update of the state, what each field holds after it. -/

namespace Sys2Proof.Machine

section
variable (op : Byte) (s : State)

@[simp] theorem beginDispatch_a : (beginDispatch op s).a = s.a := rfl
@[simp] theorem beginDispatch_x : (beginDispatch op s).x = s.x := rfl
@[simp] theorem beginDispatch_y : (beginDispatch op s).y = s.y := rfl
@[simp] theorem beginDispatch_sp : (beginDispatch op s).sp = s.sp := rfl
@[simp] theorem beginDispatch_pc : (beginDispatch op s).pc = s.pc + 1#16 := rfl
@[simp] theorem beginDispatch_p : (beginDispatch op s).p = s.p := rfl
@[simp] theorem beginDispatch_opcode : (beginDispatch op s).opcode = op := rfl
@[simp] theorem beginDispatch_ea : (beginDispatch op s).ea = s.ea := rfl
@[simp] theorem beginDispatch_opv : (beginDispatch op s).opv = s.opv := rfl
@[simp] theorem beginDispatch_rem : (beginDispatch op s).rem = s.rem := rfl
@[simp] theorem beginDispatch_cpuFault : (beginDispatch op s).cpuFault = s.cpuFault := rfl
@[simp] theorem beginDispatch_cycle : (beginDispatch op s).cycle = s.cycle := rfl
@[simp] theorem beginDispatch_scanline : (beginDispatch op s).scanline = s.scanline := rfl
@[simp] theorem beginDispatch_frameComplete : (beginDispatch op s).frameComplete = s.frameComplete := rfl
@[simp] theorem beginDispatch_nmi : (beginDispatch op s).nmi = s.nmi := rfl
@[simp] theorem beginDispatch_ppuctrl : (beginDispatch op s).ppuctrl = s.ppuctrl := rfl
@[simp] theorem beginDispatch_ppumask : (beginDispatch op s).ppumask = s.ppumask := rfl
@[simp] theorem beginDispatch_vblank : (beginDispatch op s).vblank = s.vblank := rfl
@[simp] theorem beginDispatch_oamAddr : (beginDispatch op s).oamAddr = s.oamAddr := rfl
@[simp] theorem beginDispatch_v : (beginDispatch op s).v = s.v := rfl
@[simp] theorem beginDispatch_w : (beginDispatch op s).w = s.w := rfl
@[simp] theorem beginDispatch_rdbuf : (beginDispatch op s).rdbuf = s.rdbuf := rfl
@[simp] theorem beginDispatch_scrollX : (beginDispatch op s).scrollX = s.scrollX := rfl
@[simp] theorem beginDispatch_scrollY : (beginDispatch op s).scrollY = s.scrollY := rfl
@[simp] theorem beginDispatch_ppuFault : (beginDispatch op s).ppuFault = s.ppuFault := rfl
@[simp] theorem beginDispatch_nt : (beginDispatch op s).nt = s.nt := rfl
@[simp] theorem beginDispatch_pal : (beginDispatch op s).pal = s.pal := rfl
@[simp] theorem beginDispatch_oam : (beginDispatch op s).oam = s.oam := rfl
@[simp] theorem beginDispatch_chr : (beginDispatch op s).chr = s.chr := rfl
@[simp] theorem beginDispatch_ram : (beginDispatch op s).ram = s.ram := rfl
@[simp] theorem beginDispatch_prgRam : (beginDispatch op s).prgRam = s.prgRam := rfl
@[simp] theorem beginDispatch_prgRom : (beginDispatch op s).prgRom = s.prgRom := rfl
@[simp] theorem beginDispatch_irq : (beginDispatch op s).irq = s.irq := rfl
@[simp] theorem beginDispatch_sink : (beginDispatch op s).sink = s.sink := rfl
@[simp] theorem beginDispatch_config : (beginDispatch op s).config = s.config := rfl
@[simp] theorem beginDispatch_epoch : (beginDispatch op s).epoch = s.epoch := rfl
@[simp] theorem beginDispatch_draws : (beginDispatch op s).draws = s.draws := rfl
@[simp] theorem beginDispatch_host : (beginDispatch op s).host = s.host := rfl

end

section
variable (base : Nat) (extra : Extra) (x1 x2 : Nat) (s : State)

@[simp] theorem finishDispatch_a : (finishDispatch base extra x1 x2 s).a = s.a := rfl
@[simp] theorem finishDispatch_x : (finishDispatch base extra x1 x2 s).x = s.x := rfl
@[simp] theorem finishDispatch_y : (finishDispatch base extra x1 x2 s).y = s.y := rfl
@[simp] theorem finishDispatch_sp : (finishDispatch base extra x1 x2 s).sp = s.sp := rfl
@[simp] theorem finishDispatch_pc : (finishDispatch base extra x1 x2 s).pc = s.pc := rfl
@[simp] theorem finishDispatch_p : (finishDispatch base extra x1 x2 s).p = s.p := rfl
@[simp] theorem finishDispatch_opcode : (finishDispatch base extra x1 x2 s).opcode = s.opcode := rfl
@[simp] theorem finishDispatch_ea : (finishDispatch base extra x1 x2 s).ea = s.ea := rfl
@[simp] theorem finishDispatch_opv : (finishDispatch base extra x1 x2 s).opv = s.opv := rfl
@[simp] theorem finishDispatch_rem : (finishDispatch base extra x1 x2 s).rem = base + (if extra = .page then x1 else 0) + x2 - 1 := rfl
@[simp] theorem finishDispatch_cpuFault : (finishDispatch base extra x1 x2 s).cpuFault = s.cpuFault := rfl
@[simp] theorem finishDispatch_cycle : (finishDispatch base extra x1 x2 s).cycle = s.cycle := rfl
@[simp] theorem finishDispatch_scanline : (finishDispatch base extra x1 x2 s).scanline = s.scanline := rfl
@[simp] theorem finishDispatch_frameComplete : (finishDispatch base extra x1 x2 s).frameComplete = s.frameComplete := rfl
@[simp] theorem finishDispatch_nmi : (finishDispatch base extra x1 x2 s).nmi = s.nmi := rfl
@[simp] theorem finishDispatch_ppuctrl : (finishDispatch base extra x1 x2 s).ppuctrl = s.ppuctrl := rfl
@[simp] theorem finishDispatch_ppumask : (finishDispatch base extra x1 x2 s).ppumask = s.ppumask := rfl
@[simp] theorem finishDispatch_vblank : (finishDispatch base extra x1 x2 s).vblank = s.vblank := rfl
@[simp] theorem finishDispatch_oamAddr : (finishDispatch base extra x1 x2 s).oamAddr = s.oamAddr := rfl
@[simp] theorem finishDispatch_v : (finishDispatch base extra x1 x2 s).v = s.v := rfl
@[simp] theorem finishDispatch_w : (finishDispatch base extra x1 x2 s).w = s.w := rfl
@[simp] theorem finishDispatch_rdbuf : (finishDispatch base extra x1 x2 s).rdbuf = s.rdbuf := rfl
@[simp] theorem finishDispatch_scrollX : (finishDispatch base extra x1 x2 s).scrollX = s.scrollX := rfl
@[simp] theorem finishDispatch_scrollY : (finishDispatch base extra x1 x2 s).scrollY = s.scrollY := rfl
@[simp] theorem finishDispatch_ppuFault : (finishDispatch base extra x1 x2 s).ppuFault = s.ppuFault := rfl
@[simp] theorem finishDispatch_nt : (finishDispatch base extra x1 x2 s).nt = s.nt := rfl
@[simp] theorem finishDispatch_pal : (finishDispatch base extra x1 x2 s).pal = s.pal := rfl
@[simp] theorem finishDispatch_oam : (finishDispatch base extra x1 x2 s).oam = s.oam := rfl
@[simp] theorem finishDispatch_chr : (finishDispatch base extra x1 x2 s).chr = s.chr := rfl
@[simp] theorem finishDispatch_ram : (finishDispatch base extra x1 x2 s).ram = s.ram := rfl
@[simp] theorem finishDispatch_prgRam : (finishDispatch base extra x1 x2 s).prgRam = s.prgRam := rfl
@[simp] theorem finishDispatch_prgRom : (finishDispatch base extra x1 x2 s).prgRom = s.prgRom := rfl
@[simp] theorem finishDispatch_irq : (finishDispatch base extra x1 x2 s).irq = s.irq := rfl
@[simp] theorem finishDispatch_sink : (finishDispatch base extra x1 x2 s).sink = s.sink := rfl
@[simp] theorem finishDispatch_config : (finishDispatch base extra x1 x2 s).config = s.config := rfl
@[simp] theorem finishDispatch_epoch : (finishDispatch base extra x1 x2 s).epoch = s.epoch := rfl
@[simp] theorem finishDispatch_draws : (finishDispatch base extra x1 x2 s).draws = s.draws := rfl
@[simp] theorem finishDispatch_host : (finishDispatch base extra x1 x2 s).host = s.host := rfl

end

section
variable (s : State)

@[simp] theorem countDraw_a : (countDraw s).a = s.a := rfl
@[simp] theorem countDraw_x : (countDraw s).x = s.x := rfl
@[simp] theorem countDraw_y : (countDraw s).y = s.y := rfl
@[simp] theorem countDraw_sp : (countDraw s).sp = s.sp := rfl
@[simp] theorem countDraw_pc : (countDraw s).pc = s.pc := rfl
@[simp] theorem countDraw_p : (countDraw s).p = s.p := rfl
@[simp] theorem countDraw_opcode : (countDraw s).opcode = s.opcode := rfl
@[simp] theorem countDraw_ea : (countDraw s).ea = s.ea := rfl
@[simp] theorem countDraw_opv : (countDraw s).opv = s.opv := rfl
@[simp] theorem countDraw_rem : (countDraw s).rem = s.rem := rfl
@[simp] theorem countDraw_cpuFault : (countDraw s).cpuFault = s.cpuFault := rfl
@[simp] theorem countDraw_cycle : (countDraw s).cycle = s.cycle := rfl
@[simp] theorem countDraw_scanline : (countDraw s).scanline = s.scanline := rfl
@[simp] theorem countDraw_frameComplete : (countDraw s).frameComplete = s.frameComplete := rfl
@[simp] theorem countDraw_nmi : (countDraw s).nmi = s.nmi := rfl
@[simp] theorem countDraw_ppuctrl : (countDraw s).ppuctrl = s.ppuctrl := rfl
@[simp] theorem countDraw_ppumask : (countDraw s).ppumask = s.ppumask := rfl
@[simp] theorem countDraw_vblank : (countDraw s).vblank = s.vblank := rfl
@[simp] theorem countDraw_oamAddr : (countDraw s).oamAddr = s.oamAddr := rfl
@[simp] theorem countDraw_v : (countDraw s).v = s.v := rfl
@[simp] theorem countDraw_w : (countDraw s).w = s.w := rfl
@[simp] theorem countDraw_rdbuf : (countDraw s).rdbuf = s.rdbuf := rfl
@[simp] theorem countDraw_scrollX : (countDraw s).scrollX = s.scrollX := rfl
@[simp] theorem countDraw_scrollY : (countDraw s).scrollY = s.scrollY := rfl
@[simp] theorem countDraw_ppuFault : (countDraw s).ppuFault = s.ppuFault := rfl
@[simp] theorem countDraw_nt : (countDraw s).nt = s.nt := rfl
@[simp] theorem countDraw_pal : (countDraw s).pal = s.pal := rfl
@[simp] theorem countDraw_oam : (countDraw s).oam = s.oam := rfl
@[simp] theorem countDraw_chr : (countDraw s).chr = s.chr := rfl
@[simp] theorem countDraw_ram : (countDraw s).ram = s.ram := rfl
@[simp] theorem countDraw_prgRam : (countDraw s).prgRam = s.prgRam := rfl
@[simp] theorem countDraw_prgRom : (countDraw s).prgRom = s.prgRom := rfl
@[simp] theorem countDraw_irq : (countDraw s).irq = s.irq := rfl
@[simp] theorem countDraw_sink : (countDraw s).sink = s.sink := rfl
@[simp] theorem countDraw_config : (countDraw s).config = s.config := rfl
@[simp] theorem countDraw_epoch : (countDraw s).epoch = s.epoch := rfl
@[simp] theorem countDraw_draws : (countDraw s).draws = s.draws + 1 := rfl
@[simp] theorem countDraw_host : (countDraw s).host = s.host := rfl

end

section
variable (m : Byte) (s : State)

@[simp] theorem addToA_a : (addToA m s).a = adcResult s.a m s.p.c := rfl
@[simp] theorem addToA_x : (addToA m s).x = s.x := rfl
@[simp] theorem addToA_y : (addToA m s).y = s.y := rfl
@[simp] theorem addToA_sp : (addToA m s).sp = s.sp := rfl
@[simp] theorem addToA_pc : (addToA m s).pc = s.pc := rfl
@[simp] theorem addToA_p : (addToA m s).p = s.p.adc s.a m := rfl
@[simp] theorem addToA_opcode : (addToA m s).opcode = s.opcode := rfl
@[simp] theorem addToA_ea : (addToA m s).ea = s.ea := rfl
@[simp] theorem addToA_opv : (addToA m s).opv = s.opv := rfl
@[simp] theorem addToA_rem : (addToA m s).rem = s.rem := rfl
@[simp] theorem addToA_cpuFault : (addToA m s).cpuFault = s.cpuFault := rfl
@[simp] theorem addToA_cycle : (addToA m s).cycle = s.cycle := rfl
@[simp] theorem addToA_scanline : (addToA m s).scanline = s.scanline := rfl
@[simp] theorem addToA_frameComplete : (addToA m s).frameComplete = s.frameComplete := rfl
@[simp] theorem addToA_nmi : (addToA m s).nmi = s.nmi := rfl
@[simp] theorem addToA_ppuctrl : (addToA m s).ppuctrl = s.ppuctrl := rfl
@[simp] theorem addToA_ppumask : (addToA m s).ppumask = s.ppumask := rfl
@[simp] theorem addToA_vblank : (addToA m s).vblank = s.vblank := rfl
@[simp] theorem addToA_oamAddr : (addToA m s).oamAddr = s.oamAddr := rfl
@[simp] theorem addToA_v : (addToA m s).v = s.v := rfl
@[simp] theorem addToA_w : (addToA m s).w = s.w := rfl
@[simp] theorem addToA_rdbuf : (addToA m s).rdbuf = s.rdbuf := rfl
@[simp] theorem addToA_scrollX : (addToA m s).scrollX = s.scrollX := rfl
@[simp] theorem addToA_scrollY : (addToA m s).scrollY = s.scrollY := rfl
@[simp] theorem addToA_ppuFault : (addToA m s).ppuFault = s.ppuFault := rfl
@[simp] theorem addToA_nt : (addToA m s).nt = s.nt := rfl
@[simp] theorem addToA_pal : (addToA m s).pal = s.pal := rfl
@[simp] theorem addToA_oam : (addToA m s).oam = s.oam := rfl
@[simp] theorem addToA_chr : (addToA m s).chr = s.chr := rfl
@[simp] theorem addToA_ram : (addToA m s).ram = s.ram := rfl
@[simp] theorem addToA_prgRam : (addToA m s).prgRam = s.prgRam := rfl
@[simp] theorem addToA_prgRom : (addToA m s).prgRom = s.prgRom := rfl
@[simp] theorem addToA_irq : (addToA m s).irq = s.irq := rfl
@[simp] theorem addToA_sink : (addToA m s).sink = s.sink := rfl
@[simp] theorem addToA_config : (addToA m s).config = s.config := rfl
@[simp] theorem addToA_epoch : (addToA m s).epoch = s.epoch := rfl
@[simp] theorem addToA_draws : (addToA m s).draws = s.draws := rfl
@[simp] theorem addToA_host : (addToA m s).host = s.host := rfl

end

section
variable (v : Byte) (s : State)

@[simp] theorem logicToA_a : (logicToA v s).a = v := rfl
@[simp] theorem logicToA_x : (logicToA v s).x = s.x := rfl
@[simp] theorem logicToA_y : (logicToA v s).y = s.y := rfl
@[simp] theorem logicToA_sp : (logicToA v s).sp = s.sp := rfl
@[simp] theorem logicToA_pc : (logicToA v s).pc = s.pc := rfl
@[simp] theorem logicToA_p : (logicToA v s).p = s.p.setZN v := rfl
@[simp] theorem logicToA_opcode : (logicToA v s).opcode = s.opcode := rfl
@[simp] theorem logicToA_ea : (logicToA v s).ea = s.ea := rfl
@[simp] theorem logicToA_opv : (logicToA v s).opv = s.opv := rfl
@[simp] theorem logicToA_rem : (logicToA v s).rem = s.rem := rfl
@[simp] theorem logicToA_cpuFault : (logicToA v s).cpuFault = s.cpuFault := rfl
@[simp] theorem logicToA_cycle : (logicToA v s).cycle = s.cycle := rfl
@[simp] theorem logicToA_scanline : (logicToA v s).scanline = s.scanline := rfl
@[simp] theorem logicToA_frameComplete : (logicToA v s).frameComplete = s.frameComplete := rfl
@[simp] theorem logicToA_nmi : (logicToA v s).nmi = s.nmi := rfl
@[simp] theorem logicToA_ppuctrl : (logicToA v s).ppuctrl = s.ppuctrl := rfl
@[simp] theorem logicToA_ppumask : (logicToA v s).ppumask = s.ppumask := rfl
@[simp] theorem logicToA_vblank : (logicToA v s).vblank = s.vblank := rfl
@[simp] theorem logicToA_oamAddr : (logicToA v s).oamAddr = s.oamAddr := rfl
@[simp] theorem logicToA_v : (logicToA v s).v = s.v := rfl
@[simp] theorem logicToA_w : (logicToA v s).w = s.w := rfl
@[simp] theorem logicToA_rdbuf : (logicToA v s).rdbuf = s.rdbuf := rfl
@[simp] theorem logicToA_scrollX : (logicToA v s).scrollX = s.scrollX := rfl
@[simp] theorem logicToA_scrollY : (logicToA v s).scrollY = s.scrollY := rfl
@[simp] theorem logicToA_ppuFault : (logicToA v s).ppuFault = s.ppuFault := rfl
@[simp] theorem logicToA_nt : (logicToA v s).nt = s.nt := rfl
@[simp] theorem logicToA_pal : (logicToA v s).pal = s.pal := rfl
@[simp] theorem logicToA_oam : (logicToA v s).oam = s.oam := rfl
@[simp] theorem logicToA_chr : (logicToA v s).chr = s.chr := rfl
@[simp] theorem logicToA_ram : (logicToA v s).ram = s.ram := rfl
@[simp] theorem logicToA_prgRam : (logicToA v s).prgRam = s.prgRam := rfl
@[simp] theorem logicToA_prgRom : (logicToA v s).prgRom = s.prgRom := rfl
@[simp] theorem logicToA_irq : (logicToA v s).irq = s.irq := rfl
@[simp] theorem logicToA_sink : (logicToA v s).sink = s.sink := rfl
@[simp] theorem logicToA_config : (logicToA v s).config = s.config := rfl
@[simp] theorem logicToA_epoch : (logicToA v s).epoch = s.epoch := rfl
@[simp] theorem logicToA_draws : (logicToA v s).draws = s.draws := rfl
@[simp] theorem logicToA_host : (logicToA v s).host = s.host := rfl

end

section
variable (v : Byte) (s : State)

@[simp] theorem writeOamData_a : (writeOamData v s).a = s.a := rfl
@[simp] theorem writeOamData_x : (writeOamData v s).x = s.x := rfl
@[simp] theorem writeOamData_y : (writeOamData v s).y = s.y := rfl
@[simp] theorem writeOamData_sp : (writeOamData v s).sp = s.sp := rfl
@[simp] theorem writeOamData_pc : (writeOamData v s).pc = s.pc := rfl
@[simp] theorem writeOamData_p : (writeOamData v s).p = s.p := rfl
@[simp] theorem writeOamData_opcode : (writeOamData v s).opcode = s.opcode := rfl
@[simp] theorem writeOamData_ea : (writeOamData v s).ea = s.ea := rfl
@[simp] theorem writeOamData_opv : (writeOamData v s).opv = s.opv := rfl
@[simp] theorem writeOamData_rem : (writeOamData v s).rem = s.rem := rfl
@[simp] theorem writeOamData_cpuFault : (writeOamData v s).cpuFault = s.cpuFault := rfl
@[simp] theorem writeOamData_cycle : (writeOamData v s).cycle = s.cycle := rfl
@[simp] theorem writeOamData_scanline : (writeOamData v s).scanline = s.scanline := rfl
@[simp] theorem writeOamData_frameComplete : (writeOamData v s).frameComplete = s.frameComplete := rfl
@[simp] theorem writeOamData_nmi : (writeOamData v s).nmi = s.nmi := rfl
@[simp] theorem writeOamData_ppuctrl : (writeOamData v s).ppuctrl = s.ppuctrl := rfl
@[simp] theorem writeOamData_ppumask : (writeOamData v s).ppumask = s.ppumask := rfl
@[simp] theorem writeOamData_vblank : (writeOamData v s).vblank = s.vblank := rfl
@[simp] theorem writeOamData_oamAddr : (writeOamData v s).oamAddr = s.oamAddr + 1#8 := rfl
@[simp] theorem writeOamData_v : (writeOamData v s).v = s.v := rfl
@[simp] theorem writeOamData_w : (writeOamData v s).w = s.w := rfl
@[simp] theorem writeOamData_rdbuf : (writeOamData v s).rdbuf = s.rdbuf := rfl
@[simp] theorem writeOamData_scrollX : (writeOamData v s).scrollX = s.scrollX := rfl
@[simp] theorem writeOamData_scrollY : (writeOamData v s).scrollY = s.scrollY := rfl
@[simp] theorem writeOamData_ppuFault : (writeOamData v s).ppuFault = s.ppuFault := rfl
@[simp] theorem writeOamData_nt : (writeOamData v s).nt = s.nt := rfl
@[simp] theorem writeOamData_pal : (writeOamData v s).pal = s.pal := rfl
@[simp] theorem writeOamData_oam : (writeOamData v s).oam = s.oam.write s.oamAddr.toNat v := rfl
@[simp] theorem writeOamData_chr : (writeOamData v s).chr = s.chr := rfl
@[simp] theorem writeOamData_ram : (writeOamData v s).ram = s.ram := rfl
@[simp] theorem writeOamData_prgRam : (writeOamData v s).prgRam = s.prgRam := rfl
@[simp] theorem writeOamData_prgRom : (writeOamData v s).prgRom = s.prgRom := rfl
@[simp] theorem writeOamData_irq : (writeOamData v s).irq = s.irq := rfl
@[simp] theorem writeOamData_sink : (writeOamData v s).sink = s.sink := rfl
@[simp] theorem writeOamData_config : (writeOamData v s).config = s.config := rfl
@[simp] theorem writeOamData_epoch : (writeOamData v s).epoch = s.epoch := rfl
@[simp] theorem writeOamData_draws : (writeOamData v s).draws = s.draws := rfl
@[simp] theorem writeOamData_host : (writeOamData v s).host = s.host := rfl

end

section
variable (x y : Nat) (s : State)

@[simp] theorem emitPixel_a : (emitPixel x y s).a = s.a := rfl
@[simp] theorem emitPixel_x : (emitPixel x y s).x = s.x := rfl
@[simp] theorem emitPixel_y : (emitPixel x y s).y = s.y := rfl
@[simp] theorem emitPixel_sp : (emitPixel x y s).sp = s.sp := rfl
@[simp] theorem emitPixel_pc : (emitPixel x y s).pc = s.pc := rfl
@[simp] theorem emitPixel_p : (emitPixel x y s).p = s.p := rfl
@[simp] theorem emitPixel_opcode : (emitPixel x y s).opcode = s.opcode := rfl
@[simp] theorem emitPixel_ea : (emitPixel x y s).ea = s.ea := rfl
@[simp] theorem emitPixel_opv : (emitPixel x y s).opv = s.opv := rfl
@[simp] theorem emitPixel_rem : (emitPixel x y s).rem = s.rem := rfl
@[simp] theorem emitPixel_cpuFault : (emitPixel x y s).cpuFault = s.cpuFault := rfl
@[simp] theorem emitPixel_cycle : (emitPixel x y s).cycle = s.cycle := rfl
@[simp] theorem emitPixel_scanline : (emitPixel x y s).scanline = s.scanline := rfl
@[simp] theorem emitPixel_frameComplete : (emitPixel x y s).frameComplete = s.frameComplete := rfl
@[simp] theorem emitPixel_nmi : (emitPixel x y s).nmi = s.nmi := rfl
@[simp] theorem emitPixel_ppuctrl : (emitPixel x y s).ppuctrl = s.ppuctrl := rfl
@[simp] theorem emitPixel_ppumask : (emitPixel x y s).ppumask = s.ppumask := rfl
@[simp] theorem emitPixel_vblank : (emitPixel x y s).vblank = s.vblank := rfl
@[simp] theorem emitPixel_oamAddr : (emitPixel x y s).oamAddr = s.oamAddr := rfl
@[simp] theorem emitPixel_v : (emitPixel x y s).v = s.v := rfl
@[simp] theorem emitPixel_w : (emitPixel x y s).w = s.w := rfl
@[simp] theorem emitPixel_rdbuf : (emitPixel x y s).rdbuf = s.rdbuf := rfl
@[simp] theorem emitPixel_scrollX : (emitPixel x y s).scrollX = s.scrollX := rfl
@[simp] theorem emitPixel_scrollY : (emitPixel x y s).scrollY = s.scrollY := rfl
@[simp] theorem emitPixel_ppuFault : (emitPixel x y s).ppuFault = s.ppuFault := rfl
@[simp] theorem emitPixel_nt : (emitPixel x y s).nt = s.nt := rfl
@[simp] theorem emitPixel_pal : (emitPixel x y s).pal = s.pal := rfl
@[simp] theorem emitPixel_oam : (emitPixel x y s).oam = s.oam := rfl
@[simp] theorem emitPixel_chr : (emitPixel x y s).chr = s.chr := rfl
@[simp] theorem emitPixel_ram : (emitPixel x y s).ram = s.ram := rfl
@[simp] theorem emitPixel_prgRam : (emitPixel x y s).prgRam = s.prgRam := rfl
@[simp] theorem emitPixel_prgRom : (emitPixel x y s).prgRom = s.prgRom := rfl
@[simp] theorem emitPixel_irq : (emitPixel x y s).irq = s.irq := rfl
@[simp] theorem emitPixel_sink : (emitPixel x y s).sink = ⟨BitVec.ofNat 8 x, BitVec.ofNat 8 y, pixelColour x y s⟩ :: s.sink := rfl
@[simp] theorem emitPixel_config : (emitPixel x y s).config = s.config := rfl
@[simp] theorem emitPixel_epoch : (emitPixel x y s).epoch = s.epoch := rfl
@[simp] theorem emitPixel_draws : (emitPixel x y s).draws = s.draws := rfl
@[simp] theorem emitPixel_host : (emitPixel x y s).host = s.host := rfl

end

section
variable (s : State)

@[simp] theorem ppuReset_a : (ppuReset s).a = s.a := rfl
@[simp] theorem ppuReset_x : (ppuReset s).x = s.x := rfl
@[simp] theorem ppuReset_y : (ppuReset s).y = s.y := rfl
@[simp] theorem ppuReset_sp : (ppuReset s).sp = s.sp := rfl
@[simp] theorem ppuReset_pc : (ppuReset s).pc = s.pc := rfl
@[simp] theorem ppuReset_p : (ppuReset s).p = s.p := rfl
@[simp] theorem ppuReset_opcode : (ppuReset s).opcode = s.opcode := rfl
@[simp] theorem ppuReset_ea : (ppuReset s).ea = s.ea := rfl
@[simp] theorem ppuReset_opv : (ppuReset s).opv = s.opv := rfl
@[simp] theorem ppuReset_rem : (ppuReset s).rem = s.rem := rfl
@[simp] theorem ppuReset_cpuFault : (ppuReset s).cpuFault = s.cpuFault := rfl
@[simp] theorem ppuReset_cycle : (ppuReset s).cycle = 0 := rfl
@[simp] theorem ppuReset_scanline : (ppuReset s).scanline = -1 := rfl
@[simp] theorem ppuReset_frameComplete : (ppuReset s).frameComplete = false := rfl
@[simp] theorem ppuReset_nmi : (ppuReset s).nmi = false := rfl
@[simp] theorem ppuReset_ppuctrl : (ppuReset s).ppuctrl = 0x00#8 := rfl
@[simp] theorem ppuReset_ppumask : (ppuReset s).ppumask = 0x00#8 := rfl
@[simp] theorem ppuReset_vblank : (ppuReset s).vblank = false := rfl
@[simp] theorem ppuReset_oamAddr : (ppuReset s).oamAddr = 0x00#8 := rfl
@[simp] theorem ppuReset_v : (ppuReset s).v = 0x0000#14 := rfl
@[simp] theorem ppuReset_w : (ppuReset s).w = false := rfl
@[simp] theorem ppuReset_rdbuf : (ppuReset s).rdbuf = 0x00#8 := rfl
@[simp] theorem ppuReset_scrollX : (ppuReset s).scrollX = 0x00#8 := rfl
@[simp] theorem ppuReset_scrollY : (ppuReset s).scrollY = 0x00#8 := rfl
@[simp] theorem ppuReset_ppuFault : (ppuReset s).ppuFault = none := rfl
@[simp] theorem ppuReset_nt : (ppuReset s).nt = s.nt := rfl
@[simp] theorem ppuReset_pal : (ppuReset s).pal = s.pal := rfl
@[simp] theorem ppuReset_oam : (ppuReset s).oam = s.oam := rfl
@[simp] theorem ppuReset_chr : (ppuReset s).chr = s.chr := rfl
@[simp] theorem ppuReset_ram : (ppuReset s).ram = s.ram := rfl
@[simp] theorem ppuReset_prgRam : (ppuReset s).prgRam = s.prgRam := rfl
@[simp] theorem ppuReset_prgRom : (ppuReset s).prgRom = s.prgRom := rfl
@[simp] theorem ppuReset_irq : (ppuReset s).irq = s.irq := rfl
@[simp] theorem ppuReset_sink : (ppuReset s).sink = s.sink := rfl
@[simp] theorem ppuReset_config : (ppuReset s).config = s.config := rfl
@[simp] theorem ppuReset_epoch : (ppuReset s).epoch = s.epoch := rfl
@[simp] theorem ppuReset_draws : (ppuReset s).draws = s.draws := rfl
@[simp] theorem ppuReset_host : (ppuReset s).host = s.host := rfl

end

end Sys2Proof.Machine
end

