-- ==== Sys2Proof/Tests/Slice0.lean ====
section
/-! SUPPORT. Sys2Proof/Tests/Slice0.lean: the model's own tests. Expected values are those of the spec's
vectors (95) and worked examples (10, 49), named in each test; nothing here is taken from the model. Then one
witness for every obligation with hypotheses, at the boundaries of its clauses. -/

namespace Sys2Proof.Tests
open Sys2Proof Sys2Proof.Machine

/-! ## Helpers -/

/-- The default initial state of the vectors (95 section 2). -/
def dflt : Harness := ⟨0x0200, 0xFD, 0x00, 0x00, 0x00, 0x24, []⟩

/-- An operation answers a next state with the property. -/
def answers (r : Res State) (f : State → Bool) : Bool :=
  match r with
  | .next t => f t
  | _ => false

/-- An operation stops with the fault. -/
def faults (r : Res State) (f : Fault) : Bool :=
  match r with
  | .fault g => decide (g = f)
  | _ => false

/-- A read gives the byte, in a state with the property. -/
def gives (r : Res (Byte × State)) (b : Byte) (f : State → Bool) : Bool :=
  match r with
  | .next q => decide (q.1 = b) && f q.2
  | _ => false

/-- One vector of 95: from the harness state `i`, one `CPU.Clock` gives the harness state `f` (its memory
pairs being the bytes looked at), taking so many cycles. -/
def vector (i f : Harness) (cycles : Nat) : Bool :=
  answers (cpuClock (harnessLoad i State.reset)) fun t =>
    decide (harnessRead (f.ram.map (·.1)) t = f) && decide (t.rem + 1 = cycles)

/-- The state at power-on with bytes placed at an address, and `PC` there. -/
def at_ (addr : Word) (bs : List Byte) (s : State) : State := pokeBytes addr bs { s with pc := addr }

/-- The power-on state over the console map. -/
def nes : State := { State.reset with config := { Config.default with bus := .nesNrom } }

/-! ## Well-formed terms -/

/-- A displacement outside a signed byte has no encoding (30 R105). -/
theorem test_wellformed_refuses :
    Instr.WellFormed (.bcc 128) = false ∧ Instr.WellFormed (.bvs (-129)) = false ∧
    Instr.WellFormed (.bcc 127) = true ∧ Instr.WellFormed (.bvs (-128)) = true := by decide

/-- Configurations the spec does not admit (00 R7). -/
theorem test_config_refuses :
    Config.WellFormed { Config.default with prgSize := 0 } = false ∧
    Config.WellFormed { Config.default with prgSize := 16385 } = false ∧
    Config.WellFormed { Config.default with ntSize := 0 } = false ∧
    Config.WellFormed { Config.default with prgSize := 16384 } = true := by decide

/-! ## Decoding: the grid of 30 R108, operand bytes 0x9A, 0x34 0x12 and displacement 0xFB -/

theorem test_decode_load_store_transfer_1 :
    decodeTableWord 16 0x9AA9 = some (.ldaImm 0x9A#8) ∧
    decodeTableWord 16 0x9AA5 = some (.ldaZp 0x9A#8) ∧
    decodeTableWord 16 0x9AB5 = some (.ldaZpx 0x9A#8) ∧
    decodeTableWord 24 0x1234AD = some (.ldaAbs 0x1234#16) ∧
    decodeTableWord 24 0x1234BD = some (.ldaAbx 0x1234#16) ∧
    decodeTableWord 24 0x1234B9 = some (.ldaAby 0x1234#16) ∧
    decodeTableWord 16 0x9AA1 = some (.ldaIzx 0x9A#8) ∧
    decodeTableWord 16 0x9AB1 = some (.ldaIzy 0x9A#8) ∧
    decodeTableWord 16 0x9AA2 = some (.ldxImm 0x9A#8) ∧
    decodeTableWord 16 0x9AA6 = some (.ldxZp 0x9A#8) ∧
    decodeTableWord 16 0x9AB6 = some (.ldxZpy 0x9A#8) ∧
    decodeTableWord 24 0x1234AE = some (.ldxAbs 0x1234#16) ∧
    decodeTableWord 24 0x1234BE = some (.ldxAby 0x1234#16) ∧
    decodeTableWord 16 0x9AA0 = some (.ldyImm 0x9A#8) ∧
    decodeTableWord 16 0x9AA4 = some (.ldyZp 0x9A#8) ∧
    decodeTableWord 16 0x9AB4 = some (.ldyZpx 0x9A#8) ∧
    decodeTableWord 24 0x1234AC = some (.ldyAbs 0x1234#16) ∧
    decodeTableWord 24 0x1234BC = some (.ldyAbx 0x1234#16) ∧
    decodeTableWord 16 0x9A85 = some (.staZp 0x9A#8) ∧
    decodeTableWord 16 0x9A95 = some (.staZpx 0x9A#8) := by decide

theorem test_decode_load_store_transfer_2 :
    decodeTableWord 24 0x12348D = some (.staAbs 0x1234#16) ∧
    decodeTableWord 24 0x12349D = some (.staAbx 0x1234#16) ∧
    decodeTableWord 24 0x123499 = some (.staAby 0x1234#16) ∧
    decodeTableWord 16 0x9A81 = some (.staIzx 0x9A#8) ∧
    decodeTableWord 16 0x9A91 = some (.staIzy 0x9A#8) ∧
    decodeTableWord 16 0x9A86 = some (.stxZp 0x9A#8) ∧
    decodeTableWord 16 0x9A96 = some (.stxZpy 0x9A#8) ∧
    decodeTableWord 24 0x12348E = some (.stxAbs 0x1234#16) ∧
    decodeTableWord 16 0x9A84 = some (.styZp 0x9A#8) ∧
    decodeTableWord 16 0x9A94 = some (.styZpx 0x9A#8) ∧
    decodeTableWord 24 0x12348C = some (.styAbs 0x1234#16) ∧
    decodeTableWord 8 0xAA = some .tax ∧
    decodeTableWord 8 0xA8 = some .tay ∧
    decodeTableWord 8 0xBA = some .tsx ∧
    decodeTableWord 8 0x8A = some .txa ∧
    decodeTableWord 8 0x9A = some .txs ∧
    decodeTableWord 8 0x98 = some .tya := by decide

theorem test_decode_arithmetic_logic_1 :
    decodeTableWord 16 0x9A69 = some (.adcImm 0x9A#8) ∧
    decodeTableWord 16 0x9A65 = some (.adcZp 0x9A#8) ∧
    decodeTableWord 16 0x9A75 = some (.adcZpx 0x9A#8) ∧
    decodeTableWord 24 0x12346D = some (.adcAbs 0x1234#16) ∧
    decodeTableWord 24 0x12347D = some (.adcAbx 0x1234#16) ∧
    decodeTableWord 24 0x123479 = some (.adcAby 0x1234#16) ∧
    decodeTableWord 16 0x9A61 = some (.adcIzx 0x9A#8) ∧
    decodeTableWord 16 0x9A71 = some (.adcIzy 0x9A#8) ∧
    decodeTableWord 16 0x9A29 = some (.andImm 0x9A#8) ∧
    decodeTableWord 16 0x9A25 = some (.andZp 0x9A#8) ∧
    decodeTableWord 16 0x9A35 = some (.andZpx 0x9A#8) ∧
    decodeTableWord 24 0x12342D = some (.andAbs 0x1234#16) ∧
    decodeTableWord 24 0x12343D = some (.andAbx 0x1234#16) ∧
    decodeTableWord 24 0x123439 = some (.andAby 0x1234#16) ∧
    decodeTableWord 16 0x9A21 = some (.andIzx 0x9A#8) ∧
    decodeTableWord 16 0x9A31 = some (.andIzy 0x9A#8) ∧
    decodeTableWord 16 0x9A24 = some (.bitZp 0x9A#8) ∧
    decodeTableWord 24 0x12342C = some (.bitAbs 0x1234#16) ∧
    decodeTableWord 16 0x9AC9 = some (.cmpImm 0x9A#8) ∧
    decodeTableWord 16 0x9AC5 = some (.cmpZp 0x9A#8) := by decide

theorem test_decode_arithmetic_logic_2 :
    decodeTableWord 16 0x9AD5 = some (.cmpZpx 0x9A#8) ∧
    decodeTableWord 24 0x1234CD = some (.cmpAbs 0x1234#16) ∧
    decodeTableWord 24 0x1234DD = some (.cmpAbx 0x1234#16) ∧
    decodeTableWord 24 0x1234D9 = some (.cmpAby 0x1234#16) ∧
    decodeTableWord 16 0x9AC1 = some (.cmpIzx 0x9A#8) ∧
    decodeTableWord 16 0x9AD1 = some (.cmpIzy 0x9A#8) ∧
    decodeTableWord 16 0x9AE0 = some (.cpxImm 0x9A#8) ∧
    decodeTableWord 16 0x9AE4 = some (.cpxZp 0x9A#8) ∧
    decodeTableWord 24 0x1234EC = some (.cpxAbs 0x1234#16) ∧
    decodeTableWord 16 0x9AC0 = some (.cpyImm 0x9A#8) ∧
    decodeTableWord 16 0x9AC4 = some (.cpyZp 0x9A#8) ∧
    decodeTableWord 24 0x1234CC = some (.cpyAbs 0x1234#16) ∧
    decodeTableWord 16 0x9A49 = some (.eorImm 0x9A#8) ∧
    decodeTableWord 16 0x9A45 = some (.eorZp 0x9A#8) ∧
    decodeTableWord 16 0x9A55 = some (.eorZpx 0x9A#8) ∧
    decodeTableWord 24 0x12344D = some (.eorAbs 0x1234#16) ∧
    decodeTableWord 24 0x12345D = some (.eorAbx 0x1234#16) ∧
    decodeTableWord 24 0x123459 = some (.eorAby 0x1234#16) ∧
    decodeTableWord 16 0x9A41 = some (.eorIzx 0x9A#8) ∧
    decodeTableWord 16 0x9A51 = some (.eorIzy 0x9A#8) := by decide

theorem test_decode_arithmetic_logic_3 :
    decodeTableWord 16 0x9A09 = some (.oraImm 0x9A#8) ∧
    decodeTableWord 16 0x9A05 = some (.oraZp 0x9A#8) ∧
    decodeTableWord 16 0x9A15 = some (.oraZpx 0x9A#8) ∧
    decodeTableWord 24 0x12340D = some (.oraAbs 0x1234#16) ∧
    decodeTableWord 24 0x12341D = some (.oraAbx 0x1234#16) ∧
    decodeTableWord 24 0x123419 = some (.oraAby 0x1234#16) ∧
    decodeTableWord 16 0x9A01 = some (.oraIzx 0x9A#8) ∧
    decodeTableWord 16 0x9A11 = some (.oraIzy 0x9A#8) ∧
    decodeTableWord 16 0x9AE9 = some (.sbcImm 0x9A#8) ∧
    decodeTableWord 16 0x9AE5 = some (.sbcZp 0x9A#8) ∧
    decodeTableWord 16 0x9AF5 = some (.sbcZpx 0x9A#8) ∧
    decodeTableWord 24 0x1234ED = some (.sbcAbs 0x1234#16) ∧
    decodeTableWord 24 0x1234FD = some (.sbcAbx 0x1234#16) ∧
    decodeTableWord 24 0x1234F9 = some (.sbcAby 0x1234#16) ∧
    decodeTableWord 16 0x9AE1 = some (.sbcIzx 0x9A#8) ∧
    decodeTableWord 16 0x9AF1 = some (.sbcIzy 0x9A#8) := by decide

theorem test_decode_shift_incdec_1 :
    decodeTableWord 8 0x0A = some .aslAcc ∧
    decodeTableWord 16 0x9A06 = some (.aslZp 0x9A#8) ∧
    decodeTableWord 16 0x9A16 = some (.aslZpx 0x9A#8) ∧
    decodeTableWord 24 0x12340E = some (.aslAbs 0x1234#16) ∧
    decodeTableWord 24 0x12341E = some (.aslAbx 0x1234#16) ∧
    decodeTableWord 16 0x9AC6 = some (.decZp 0x9A#8) ∧
    decodeTableWord 16 0x9AD6 = some (.decZpx 0x9A#8) ∧
    decodeTableWord 24 0x1234CE = some (.decAbs 0x1234#16) ∧
    decodeTableWord 24 0x1234DE = some (.decAbx 0x1234#16) ∧
    decodeTableWord 8 0xCA = some .dex ∧
    decodeTableWord 8 0x88 = some .dey ∧
    decodeTableWord 16 0x9AE6 = some (.incZp 0x9A#8) ∧
    decodeTableWord 16 0x9AF6 = some (.incZpx 0x9A#8) ∧
    decodeTableWord 24 0x1234EE = some (.incAbs 0x1234#16) ∧
    decodeTableWord 24 0x1234FE = some (.incAbx 0x1234#16) ∧
    decodeTableWord 8 0xE8 = some .inx ∧
    decodeTableWord 8 0xC8 = some .iny ∧
    decodeTableWord 8 0x4A = some .lsrAcc ∧
    decodeTableWord 16 0x9A46 = some (.lsrZp 0x9A#8) ∧
    decodeTableWord 16 0x9A56 = some (.lsrZpx 0x9A#8) := by decide

theorem test_decode_shift_incdec_2 :
    decodeTableWord 24 0x12344E = some (.lsrAbs 0x1234#16) ∧
    decodeTableWord 24 0x12345E = some (.lsrAbx 0x1234#16) ∧
    decodeTableWord 8 0x2A = some .rolAcc ∧
    decodeTableWord 16 0x9A26 = some (.rolZp 0x9A#8) ∧
    decodeTableWord 16 0x9A36 = some (.rolZpx 0x9A#8) ∧
    decodeTableWord 24 0x12342E = some (.rolAbs 0x1234#16) ∧
    decodeTableWord 24 0x12343E = some (.rolAbx 0x1234#16) ∧
    decodeTableWord 8 0x6A = some .rorAcc ∧
    decodeTableWord 16 0x9A66 = some (.rorZp 0x9A#8) ∧
    decodeTableWord 16 0x9A76 = some (.rorZpx 0x9A#8) ∧
    decodeTableWord 24 0x12346E = some (.rorAbs 0x1234#16) ∧
    decodeTableWord 24 0x12347E = some (.rorAbx 0x1234#16) := by decide

theorem test_decode_branch_jump_1 :
    decodeTableWord 16 0xFB90 = some (.bcc (-5)) ∧
    decodeTableWord 16 0xFBB0 = some (.bcs (-5)) ∧
    decodeTableWord 16 0xFBF0 = some (.beq (-5)) ∧
    decodeTableWord 16 0xFB30 = some (.bmi (-5)) ∧
    decodeTableWord 16 0xFBD0 = some (.bne (-5)) ∧
    decodeTableWord 16 0xFB10 = some (.bpl (-5)) ∧
    decodeTableWord 16 0xFB50 = some (.bvc (-5)) ∧
    decodeTableWord 16 0xFB70 = some (.bvs (-5)) ∧
    decodeTableWord 24 0x12344C = some (.jmpAbs 0x1234#16) ∧
    decodeTableWord 24 0x12346C = some (.jmpInd 0x1234#16) ∧
    decodeTableWord 24 0x123420 = some (.jsr 0x1234#16) ∧
    decodeTableWord 8 0x60 = some .rts := by decide

theorem test_decode_stack_flag_system_1 :
    decodeTableWord 8 0x00 = some .brk ∧
    decodeTableWord 8 0x18 = some .clc ∧
    decodeTableWord 8 0xD8 = some .cld ∧
    decodeTableWord 8 0x58 = some .cli ∧
    decodeTableWord 8 0xB8 = some .clv ∧
    decodeTableWord 8 0xEA = some .nop ∧
    decodeTableWord 8 0x48 = some .pha ∧
    decodeTableWord 8 0x08 = some .php ∧
    decodeTableWord 8 0x68 = some .pla ∧
    decodeTableWord 8 0x28 = some .plp ∧
    decodeTableWord 8 0x40 = some .rti ∧
    decodeTableWord 8 0x38 = some .sec ∧
    decodeTableWord 8 0xF8 = some .sed ∧
    decodeTableWord 8 0x78 = some .sei := by decide

/-! ## One instruction each (95) -/

theorem test_LS8_lda : vector
    { dflt with x := 0x01, ram := [(0x0000, 0x5A), (0x0200, 0xBD), (0x0201, 0xFF), (0x0202, 0xFF)] }
    { dflt with x := 0x01, pc := 0x0203, a := 0x5A } 5 = true := by decide

theorem test_LS16_ldx : vector
    { dflt with y := 0xFF, ram := [(0x000F, 0x81), (0x0200, 0xB6), (0x0201, 0x10)] }
    { dflt with y := 0xFF, pc := 0x0202, x := 0x81, p := 0xA4 } 4 = true := by decide

theorem test_LS20_ldy : vector
    { dflt with x := 0x20, ram := [(0x0010, 0xFF), (0x0200, 0xB4), (0x0201, 0xF0)] }
    { dflt with x := 0x20, pc := 0x0202, y := 0xFF, p := 0xA4 } 4 = true := by decide

theorem test_LS24_sta : vector
    { dflt with a := 0x11, x := 0x01, ram := [(0x0200, 0x9D), (0x0201, 0xFF), (0x0202, 0x20)] }
    { dflt with a := 0x11, x := 0x01, pc := 0x0203, ram := [(0x2100, 0x11)] } 5 = true := by decide

theorem test_LS29_stx : vector
    { dflt with x := 0x07, y := 0x02, ram := [(0x0200, 0x96), (0x0201, 0xFF)] }
    { dflt with x := 0x07, y := 0x02, pc := 0x0202, ram := [(0x0001, 0x07)] } 4 = true := by decide

theorem test_LS31_sty : vector
    { dflt with x := 0x01, y := 0x66, ram := [(0x0200, 0x94), (0x0201, 0x10)] }
    { dflt with x := 0x01, y := 0x66, pc := 0x0202, ram := [(0x0011, 0x66)] } 4 = true := by decide

theorem test_LS33_tax : vector
    { dflt with a := 0x80, ram := [(0x0200, 0xAA)] }
    { dflt with a := 0x80, pc := 0x0201, x := 0x80, p := 0xA4 } 2 = true := by decide

theorem test_LS34_tay : vector
    { dflt with y := 0x09, ram := [(0x0200, 0xA8)] }
    { dflt with y := 0x00, pc := 0x0201, p := 0x26 } 2 = true := by decide

theorem test_LS35_txa : vector
    { dflt with a := 0xFF, x := 0x7F, p := 0xA4, ram := [(0x0200, 0x8A)] }
    { dflt with a := 0x7F, x := 0x7F, p := 0x24, pc := 0x0201 } 2 = true := by decide

theorem test_LS36_tya : vector
    { dflt with y := 0xC0, ram := [(0x0200, 0x98)] }
    { dflt with y := 0xC0, pc := 0x0201, a := 0xC0, p := 0xA4 } 2 = true := by decide

theorem test_LS37_tsx : vector
    { dflt with s := 0x00, x := 0x01, ram := [(0x0200, 0xBA)] }
    { dflt with s := 0x00, x := 0x00, pc := 0x0201, p := 0x26 } 2 = true := by decide

theorem test_LS39_txs : vector
    { dflt with p := 0xA4, ram := [(0x0200, 0x9A)] }
    { dflt with p := 0xA4, pc := 0x0201, s := 0x00 } 2 = true := by decide

theorem test_AL1_adc : vector
    { dflt with a := 0x50, ram := [(0x0200, 0x69), (0x0201, 0x50)] }
    { dflt with a := 0xA0, pc := 0x0202, p := 0xE4 } 2 = true := by decide

theorem test_AL16_sbc : vector
    { dflt with a := 0x10, p := 0x2D, ram := [(0x0200, 0xE9), (0x0201, 0x01)] }
    { dflt with a := 0x0F, p := 0x2D, pc := 0x0202 } 2 = true := by decide

theorem test_AL20_and : vector
    { dflt with a := 0xFF, x := 0x01, p := 0x65, ram := [(0x0011, 0x80), (0x0200, 0x35), (0x0201, 0x10)] }
    { dflt with a := 0x80, x := 0x01, p := 0xE5, pc := 0x0202 } 4 = true := by decide

theorem test_AL22_ora : vector
    { dflt with ram := [(0x0020, 0x00), (0x0021, 0x03), (0x0300, 0x00), (0x0200, 0x01), (0x0201, 0x20)] }
    { dflt with pc := 0x0202, p := 0x26 } 6 = true := by decide

theorem test_AL23_eor : vector
    { dflt with a := 0x0F, ram := [(0x0200, 0x49), (0x0201, 0xFF)] }
    { dflt with a := 0xF0, pc := 0x0202, p := 0xA4 } 2 = true := by decide

theorem test_AL27_cmp : vector
    { dflt with a := 0x80, p := 0x64, ram := [(0x0200, 0xC9), (0x0201, 0x01)] }
    { dflt with a := 0x80, p := 0x65, pc := 0x0202 } 2 = true := by decide

theorem test_AL31_cpx : vector
    { dflt with ram := [(0x0010, 0x01), (0x0200, 0xE4), (0x0201, 0x10)] }
    { dflt with pc := 0x0202, p := 0xA4 } 3 = true := by decide

theorem test_AL33_cpy : vector
    { dflt with y := 0x7F, ram := [(0x0300, 0x80), (0x0200, 0xCC), (0x0201, 0x00), (0x0202, 0x03)] }
    { dflt with y := 0x7F, pc := 0x0203, p := 0xA4 } 4 = true := by decide

theorem test_AL35_bit : vector
    { dflt with a := 0xFF, p := 0xE4, ram := [(0x0300, 0x01), (0x0200, 0x2C), (0x0201, 0x00), (0x0202, 0x03)] }
    { dflt with a := 0xFF, p := 0x24, pc := 0x0203 } 4 = true := by decide

theorem test_SH3_asl : vector
    { dflt with ram := [(0x0010, 0x81), (0x0200, 0x06), (0x0201, 0x10)] }
    { dflt with pc := 0x0202, p := 0x25, ram := [(0x0010, 0x02)] } 5 = true := by decide

theorem test_SH7_lsr : vector
    { dflt with x := 0x01, ram := [(0x0400, 0x02), (0x0200, 0x5E), (0x0201, 0xFF), (0x0202, 0x03)] }
    { dflt with x := 0x01, pc := 0x0203, ram := [(0x0400, 0x01)] } 7 = true := by decide

theorem test_SH11_rol : vector
    { dflt with ram := [(0x0300, 0xFF), (0x0200, 0x2E), (0x0201, 0x00), (0x0202, 0x03)] }
    { dflt with pc := 0x0203, p := 0xA5, ram := [(0x0300, 0xFE)] } 6 = true := by decide

theorem test_SH14_ror : vector
    { dflt with x := 0xFF, p := 0x25, ram := [(0x000F, 0x02), (0x0200, 0x76), (0x0201, 0x10)] }
    { dflt with x := 0xFF, p := 0xA4, pc := 0x0202, ram := [(0x000F, 0x81)] } 6 = true := by decide

theorem test_SH16_inc : vector
    { dflt with ram := [(0x0010, 0xFF), (0x0200, 0xE6), (0x0201, 0x10)] }
    { dflt with pc := 0x0202, p := 0x26, ram := [(0x0010, 0x00)] } 5 = true := by decide

theorem test_SH20_dec : vector
    { dflt with ram := [(0x0010, 0x00), (0x0200, 0xC6), (0x0201, 0x10)] }
    { dflt with pc := 0x0202, p := 0xA4, ram := [(0x0010, 0xFF)] } 5 = true := by decide

theorem test_SH25_inx : vector
    { dflt with x := 0xFF, ram := [(0x0200, 0xE8)] }
    { dflt with x := 0x00, pc := 0x0201, p := 0x26 } 2 = true := by decide

theorem test_SH26_iny : vector
    { dflt with y := 0x7F, ram := [(0x0200, 0xC8)] }
    { dflt with y := 0x80, pc := 0x0201, p := 0xA4 } 2 = true := by decide

theorem test_SH27_dex : vector
    { dflt with ram := [(0x0200, 0xCA)] }
    { dflt with pc := 0x0201, x := 0xFF, p := 0xA4 } 2 = true := by decide

theorem test_SH28_dey : vector
    { dflt with y := 0x01, ram := [(0x0200, 0x88)] }
    { dflt with y := 0x00, pc := 0x0201, p := 0x26 } 2 = true := by decide

theorem test_BR17_bcc : vector
    { dflt with pc := 0xFFF0, ram := [(0xFFF0, 0x90), (0xFFF1, 0x20)] }
    { dflt with pc := 0x0012 } 4 = true := by decide

theorem test_BR4_bcs : vector
    { dflt with p := 0x25, ram := [(0x0200, 0xB0), (0x0201, 0x80)] }
    { dflt with p := 0x25, pc := 0x0182 } 4 = true := by decide

theorem test_BR6_beq : vector
    { dflt with p := 0x26, ram := [(0x0200, 0xF0), (0x0201, 0xFE)] }
    { dflt with p := 0x26, pc := 0x0200 } 3 = true := by decide

theorem test_BR7_bne : vector
    { dflt with pc := 0x02F0, ram := [(0x02F0, 0xD0), (0x02F1, 0x20)] }
    { dflt with pc := 0x0312 } 4 = true := by decide

theorem test_BR9_bmi : vector
    { dflt with pc := 0x0300, p := 0xA4, ram := [(0x0300, 0x30), (0x0301, 0xFB)] }
    { dflt with pc := 0x02FD, p := 0xA4 } 4 = true := by decide

theorem test_BR12_bpl : vector
    { dflt with pc := 0x0210, p := 0xA4, ram := [(0x0210, 0x10), (0x0211, 0xFC)] }
    { dflt with pc := 0x0212, p := 0xA4 } 2 = true := by decide

theorem test_BR14_bvc : vector
    { dflt with p := 0x64, ram := [(0x0200, 0x50), (0x0201, 0x02)] }
    { dflt with p := 0x64, pc := 0x0202 } 2 = true := by decide

theorem test_BR15_bvs : vector
    { dflt with p := 0x64, ram := [(0x0200, 0x70), (0x0201, 0x02)] }
    { dflt with p := 0x64, pc := 0x0204 } 3 = true := by decide

theorem test_BR21_jmp : vector
    { dflt with ram := [(0x3000, 0x40), (0x30FF, 0x80), (0x3100, 0x50), (0x0200, 0x6C), (0x0201, 0xFF), (0x0202, 0x30)] }
    { dflt with pc := 0x4080 } 5 = true := by decide

theorem test_BR23_jsr : vector
    { dflt with s := 0x00, ram := [(0x0200, 0x20), (0x0201, 0x34), (0x0202, 0x12)] }
    { dflt with s := 0xFE, pc := 0x1234, ram := [(0x0100, 0x02), (0x01FF, 0x02)] } 6 = true := by decide

theorem test_BR25_rts : vector
    { dflt with s := 0xFB, ram := [(0x01FC, 0xFF), (0x01FD, 0xFF), (0x0200, 0x60)] }
    { dflt with s := 0xFD, pc := 0x0000 } 6 = true := by decide

theorem test_SK2_pha : vector
    { dflt with s := 0x00, a := 0x42, ram := [(0x0200, 0x48)] }
    { dflt with s := 0xFF, a := 0x42, pc := 0x0201, ram := [(0x0100, 0x42)] } 3 = true := by decide

theorem test_SK3_php : vector
    { dflt with ram := [(0x0200, 0x08)] }
    { dflt with pc := 0x0201, s := 0xFC, ram := [(0x01FD, 0x34)] } 3 = true := by decide

theorem test_SK6_pla : vector
    { dflt with s := 0xFF, ram := [(0x0100, 0x80), (0x0200, 0x68)] }
    { dflt with s := 0x00, pc := 0x0201, a := 0x80, p := 0xA4 } 4 = true := by decide

theorem test_SK9_plp : vector
    { dflt with s := 0xFC, ram := [(0x01FD, 0x34), (0x0200, 0x28)] }
    { dflt with s := 0xFD, pc := 0x0201, p := 0x34 } 4 = true := by decide

theorem test_SK10_clc : vector
    { dflt with p := 0x25, ram := [(0x0200, 0x18)] }
    { dflt with p := 0x24, pc := 0x0201 } 2 = true := by decide

theorem test_SK11_sec : vector
    { dflt with ram := [(0x0200, 0x38)] }
    { dflt with pc := 0x0201, p := 0x25 } 2 = true := by decide

theorem test_SK12_cli : vector
    { dflt with ram := [(0x0200, 0x58)] }
    { dflt with pc := 0x0201, p := 0x20 } 2 = true := by decide

theorem test_SK13_sei : vector
    { dflt with p := 0x20, ram := [(0x0200, 0x78)] }
    { dflt with p := 0x24, pc := 0x0201 } 2 = true := by decide

theorem test_SK14_cld : vector
    { dflt with p := 0x2C, ram := [(0x0200, 0xD8)] }
    { dflt with p := 0x24, pc := 0x0201 } 2 = true := by decide

theorem test_SK15_sed : vector
    { dflt with ram := [(0x0200, 0xF8)] }
    { dflt with pc := 0x0201, p := 0x2C } 2 = true := by decide

theorem test_SK16_clv : vector
    { dflt with p := 0x64, ram := [(0x0200, 0xB8)] }
    { dflt with p := 0x24, pc := 0x0201 } 2 = true := by decide

theorem test_SK17_nop : vector
    { dflt with a := 0x01, x := 0x02, y := 0x03, p := 0xE5, ram := [(0x0200, 0xEA)] }
    { dflt with a := 0x01, x := 0x02, y := 0x03, p := 0xE5, pc := 0x0201 } 2 = true := by decide

theorem test_SK19_brk : vector
    { dflt with s := 0x01, p := 0xA5, ram := [(0xFFFE, 0x34), (0xFFFF, 0x12), (0x0200, 0x00)] }
    { dflt with s := 0xFE, p := 0xB5, pc := 0x1234, ram := [(0x0101, 0x02), (0x0100, 0x02), (0x01FF, 0xB5)] } 7 = true := by decide

theorem test_SK21_rti : vector
    { dflt with pc := 0x8000, s := 0xFA, ram := [(0x01FB, 0xC3), (0x01FC, 0x00), (0x01FD, 0x90), (0x8000, 0x40)] }
    { dflt with pc := 0x9000, s := 0xFD, p := 0xE3 } 6 = true := by decide

theorem test_LS11_lda : vector
    { dflt with ram := [(0x0000, 0x12), (0x00FF, 0x34), (0x1234, 0xEE), (0x0200, 0xA1), (0x0201, 0xFF)] }
    { dflt with pc := 0x0202, a := 0xEE, p := 0xA4 } 6 = true := by decide

theorem test_LS14_lda : vector
    { dflt with y := 0x01, ram := [(0x0000, 0x40), (0x00FF, 0xFF), (0x4100, 0x03), (0x0200, 0xB1), (0x0201, 0xFF)] }
    { dflt with y := 0x01, pc := 0x0202, a := 0x03 } 6 = true := by decide

theorem test_LS4_lda : vector
    { dflt with x := 0xFF, ram := [(0x007F, 0x42), (0x0200, 0xB5), (0x0201, 0x80)] }
    { dflt with x := 0xFF, pc := 0x0202, a := 0x42 } 4 = true := by decide

theorem test_BR19_jmp : vector
    { dflt with pc := 0x0000, ram := [(0x0000, 0x4C), (0x0001, 0x0F), (0x0002, 0x00)] }
    { dflt with pc := 0x000F } 3 = true := by decide

theorem test_SH15_ror : vector
    { dflt with ram := [(0x0300, 0x80), (0x0200, 0x7E), (0x0201, 0x00), (0x0202, 0x03)] }
    { dflt with pc := 0x0203, ram := [(0x0300, 0x40)] } 7 = true := by decide

theorem test_AL29_cmp : vector
    { dflt with a := 0x10, x := 0x10, ram := [(0x1300, 0x0F), (0x0200, 0xDD), (0x0201, 0xF0), (0x0202, 0x12)] }
    { dflt with a := 0x10, x := 0x10, pc := 0x0203, p := 0x25 } 5 = true := by decide

/-! ## Interrupts, resets, faults (95) -/

/-- IN1: NMI entry. -/
theorem test_IN1 : answers
    (nmiEntry (harnessLoad ⟨0x8123, 0xFD, 0, 0, 0, 0xA1, [(0xFFFB, 0x90)]⟩ State.reset))
    (fun t => decide (harnessRead [0x01FD, 0x01FC, 0x01FB] t =
      ⟨0x9000, 0xFA, 0, 0, 0, 0xA5, [(0x01FD, 0x81), (0x01FC, 0x23), (0x01FB, 0xA1)]⟩) && decide (t.rem = 7)) =
    true := by decide

/-- IN2: the pushed bit 4 is 0 although `P.B` is 1, and `P.B` stays. -/
theorem test_IN2 : answers
    (nmiEntry (harnessLoad ⟨0x8123, 0xFD, 0, 0, 0, 0x34, [(0xFFFB, 0x90)]⟩ State.reset))
    (fun t => decide (harnessRead [0x01FB] t = ⟨0x9000, 0xFA, 0, 0, 0, 0x34, [(0x01FB, 0x24)]⟩)) = true := by decide

/-- IN3: IRQ entry with the stack wrapping. -/
theorem test_IN3 : answers
    (irqEntry (harnessLoad ⟨0x0200, 0x01, 0, 0, 0, 0x20, [(0xFFFF, 0xC0)]⟩ State.reset))
    (fun t => decide (harnessRead [0x0101, 0x0100, 0x01FF] t =
      ⟨0xC000, 0xFE, 0, 0, 0, 0x24, [(0x0101, 0x02), (0x0100, 0x00), (0x01FF, 0x20)]⟩) && decide (t.rem = 7)) =
    true := by decide

/-- RS2: the warm reset. -/
theorem test_RS2 : answers
    (warmReset { harnessLoad ⟨0x1234, 0xF0, 0x12, 0x34, 0x56, 0xE3, [(0xFFFD, 0x80)]⟩ State.reset with rem := 4 })
    (fun t => decide (harnessRead [] t = ⟨0x8000, 0xED, 0x12, 0x34, 0x56, 0xE7, []⟩) && decide (t.rem = 0)) =
    true := by decide

/-- FT1: an undefined opcode; later steps do nothing but stop. -/
theorem test_FT1 : answers (step (at_ 0x0200 [0x02] State.reset))
    (fun t => decide (t.cpuFault = some (.unknownOpcode 0x02)) && faults (step t) (.unknownOpcode 0x02)) =
    true := by decide

/-- FT4: a store to program ROM. -/
theorem test_FT4 : answers (step (at_ 0x8000 [0x8D, 0x00, 0x80] nes))
    (fun t => decide (t.cpuFault = some (.readOnlyViolation .cpu 0x8000)) && decide (t.prgRom.read 0 = 0x8D)) =
    true := by decide

/-- FT7: a write to graphics ROM through `PPUDATA` latches both faults and leaves `v`. -/
theorem test_FT7 : answers (step (at_ 0x8000 [0x8D, 0x07, 0x20] nes))
    (fun t => decide (t.cpuFault = some (.readOnlyViolation .ppu 0x0000)) && decide (t.ppuFault = t.cpuFault) &&
      decide (t.v = 0x0000)) = true := by decide

/-- FT10: a 16 KB image appears twice. -/
theorem test_FT10 :
    let s := at_ 0x8000 [0xA9] { nes with config := { nes.config with prgSize := 16384 } }
    gives (memRead 0x8000 s) 0xA9 (fun _ => true) = true ∧ gives (memRead 0xC000 s) 0xA9 (fun _ => true) = true := by
  decide

/-! ## The PPU (95, 49) -/

/-- PR2, PR3: the two writes of `PPUADDR`. -/
theorem test_PR2_PR3 :
    answers (ppuWriteReg 6 0x21 nes) (fun t => decide (t.v = 0x2100 ∧ t.w = true) &&
      answers (ppuWriteReg 6 0x08 t) fun u => decide (u.v = 0x2108 ∧ u.w = false)) = true ∧
    answers (ppuWriteReg 6 0xFF { nes with v := 0x1234 }) (fun t => decide (t.v = 0x3F34 ∧ t.w = true) &&
      answers (ppuWriteReg 6 0xFF t) fun u => decide (u.v = 0x3FFF ∧ u.w = false)) = true := by decide

/-- PR5: name-table reads come one read late. -/
theorem test_PR5 :
    gives (ppuReadReg 7 { nes with nt := [(8, 0xAA), (9, 0xBB)], rdbuf := 0x77, v := 0x2008 }) 0x77
      (fun t => decide (t.rdbuf = 0xAA ∧ t.v = 0x2009) &&
        gives (ppuReadReg 7 t) 0xAA fun u => decide (u.rdbuf = 0xBB ∧ u.v = 0x200A)) = true := by decide

/-- PR6, PR7, PR8: palette reads are immediate; `v` wraps and steps by 32. -/
theorem test_PR6_PR7_PR8 :
    gives (ppuReadReg 7 { nes with pal := [(1, 0x2A)], rdbuf := 0x77, v := 0x3F01 }) 0x2A
      (fun t => decide (t.rdbuf = 0x2A ∧ t.v = 0x3F02)) = true ∧
    gives (ppuReadReg 7 { nes with pal := [(0x1F, 0x09)], v := 0x3FFF }) 0x09 (fun t => decide (t.v = 0x0000)) = true ∧
    gives (ppuReadReg 7 { nes with ppuctrl := 0x04, pal := [(0, 0x0C)], v := 0x3FF0 }) 0x0C
      (fun t => decide (t.v = 0x0010)) = true := by decide

/-- PR11: `PPUSCROLL` and `PPUADDR` share `w`. -/
theorem test_PR11 : answers (ppuWriteReg 5 0x12 nes)
    (fun t => decide (t.scrollX = 0x12 ∧ t.w = true) &&
      answers (ppuWriteReg 6 0x34 t) fun u => decide (u.v = 0x0034 ∧ u.w = false)) = true := by decide

/-- PB1, PB6: the palette's paired entries; a 1 KB name table appears at every 1 KB. -/
theorem test_PB1_PB6 :
    answers (ppuWrite 0x3F10 0x11 nes) (fun t => decide (ppuByte 0x3F00 t = 0x11)) = true ∧
    answers (ppuWrite 0x2400 0x5A nes) (fun t => decide (t.nt = [(0, 0x5A)] ∧ ppuByte 0x2000 t = 0x5A ∧
      ppuByte 0x2C00 t = 0x5A ∧ ppuByte 0x3000 t = 0x5A ∧ ppuByte 0x3400 t = 0x5A)) = true := by decide

/-- PB4: only the four listed entries alias. -/
theorem test_PB4 : answers (ppuWrite 0x3F11 0x33 nes)
    (fun t => decide (t.pal = [(0x11, 0x33)] ∧ ppuByte 0x3F11 t = 0x33 ∧ ppuByte 0x3F01 t = 0x00)) = true := by decide

/-- PT4, PT6: the events of the positions (241, 1) and (-1, 1). -/
theorem test_PT4_PT6 :
    let t := ppuClock { nes with ppuctrl := 0x80, scanline := 241, cycle := 1 }
    let u := ppuClock { nes with vblank := true, scanline := -1, cycle := 1 }
    t.vblank = true ∧ t.nmi = true ∧ t.cycle = 2 ∧ u.vblank = false ∧ u.nmi = false := by decide

/-- PT5: the counters wrap after (260, 340). -/
theorem test_PT5 :
    let t := ppuClock { nes with scanline := 260, cycle := 340 }
    t.scanline = -1 ∧ t.cycle = 0 ∧ t.frameComplete = true := by decide

/-- 49 R382's state; its OAM only as far as the tests below look. -/
def r382 : State := { nes with
  nt := [(0, 0x01), (0x3C0, 0x03)], chr := [(0x10, 0x80), (0x18, 0x80)]
  pal := [(0x0C, 0x0F), (0x0F, 0x30)] }

/-- 49 R382: the background pixels (0, 0) and (1, 0). -/
theorem test_R382 : background 0 0 r382 = (3, 0x30#8) ∧ background 1 0 r382 = (0, 0x0F#8) := by decide

/-- 49 R383, R384's sprite: tile 2 of the table at 0x1000, palette 1, behind the background. -/
def r383 (attr : Byte) : State := { r382 with
  ppuctrl := 0x08, oam := [(1, 0x02), (2, attr)], chr := r382.chr ++ [(0x1020, 0xC0)]
  pal := r382.pal ++ [(0x15, 0x16)] }

/-- 49 R383: the sprite behind an opaque background, over a transparent one, and transparent itself. -/
theorem test_R383 : pixelColour 0 0 (r383 0x21) = 0x30 ∧ pixelColour 1 0 (r383 0x21) = 0x16 := by decide

/-- 49 R384: the horizontal flip. -/
theorem test_R384 :
    spriteIndex 0 0 0 (r383 0x61) = 0 ∧ spriteIndex 0 6 0 (r383 0x61) = 1 ∧ spriteIndex 0 7 0 (r383 0x61) = 1 ∧
    spriteIndex 0 0 0 { r383 0x61 with config := { nes.config with spriteFlip := false } } = 1 := by decide

/-- PX1, PX2: the attribute's quadrants and the bottom rows, over the palette that names its entries. -/
theorem test_PX1_PX2 :
    let s := { nes with
      nt := [(0, 1), (0x42, 1), (0x383, 3), (0x3A0, 2), (0x3C0, 0xE4), (0x3F8, 0x0B)]
      chr := [(0x10, 0xFF), (0x2F, 0xFF), (0x30, 0xFF), (0x38, 0xFF)]
      pal := [(1, 0x41), (0x0B, 0x4B), (0x0D, 0x4D), (0x0E, 0x4E)] }
    background 0 0 s = (1, 0x41#8) ∧ background 16 16 s = (1, 0x4D#8) ∧ background 0 239 s = (2, 0x4E#8) ∧
    background 24 224 s = (3, 0x4B#8) := by decide

/-- 00 R13: a strobe between two ticks; the IRQ raised after the first tick is entered in the second (60 R412). -/
theorem test_R13 : answers (step { at_ 0x0200 [0x58] State.reset with
      rem := 1, p := Flags.unpack 0x20, host := [.systemTick, .setIrq true, .systemTick] })
    (fun t => answers (step t) fun u => answers (step u) fun v =>
      decide (t.irq = false ∧ t.sp = 0xFD ∧ u.irq = true ∧ v.sp = 0xFA ∧ v.p.i = true ∧ v.rem = 6)) = true := by decide

/-- 60 R401, 00 R13: after a fault, a scheduled tick does nothing and power-up starts the CPU again. -/
theorem test_fault_then_power_up :
    answers (step { at_ 0x0200 [0x02] State.reset with host := [.systemTick, .systemTick, .powerUp] })
      (fun t => answers (step t) fun u => answers (step u) fun v =>
        decide (t.cpuFault = some (.unknownOpcode 0x02) ∧ u = { t with host := [.powerUp] } ∧ v.cpuFault = none)) =
    true := by decide

/-- 60 R401: after a PPU fault, power-up alone does not let `CPU.Clock` run; with PPU reset it does. -/
theorem test_R401 :
    let s := { at_ 0x0200 [0xEA] nes with ppuFault := some (.readOnlyViolation .ppu 0) }
    answers (step { s with host := [.cpuClock] }) (fun t => decide (t = s)) = true ∧
    answers (step { s with host := [.ppuReset, .cpuClock] })
      (fun t => answers (step t) fun u => decide (u.pc = 0x0201)) = true := by decide

/-- 70 R446, 10 R38, R51: power-on with a program and its vector loaded. -/
theorem test_power_on : answers (powerOn (at_ 0xFFFC [0x34, 0x12] State.reset))
    (fun t => decide (t.pc = 0x1234 ∧ t.sp = 0xFD ∧ t.p.pack = 0x24 ∧ t.scanline = -1)) = true := by decide

/-! ## Witnesses: for every obligation with hypotheses, states and operands that meet them -/

/-- The operand of the instruction resolves and can be read, as a Bool. -/
def readableB (i : Instr) (s : State) : Bool :=
  match resolve i (begun i s) with
  | .next r => decide (i.entry.mode = .imm) || decide (i.entry.mode = .acc) || Readable r.2.ea r.2
  | _ => false

/-- The address of the instruction resolves and can be written, as a Bool. -/
def writableB (i : Instr) (s : State) : Bool :=
  match resolve i (begun i s) with
  | .next r => Writable r.2.ea r.2
  | _ => false

/-- The byte of a read-modify-write instruction can be read and its address then written, as a Bool. -/
def modifiableB (i : Instr) (s : State) : Bool :=
  match resolve i (begun i s) with
  | .next r =>
    match operand i.entry.mode r.2 with
    | .next q => Writable q.2.ea q.2
    | _ => false
  | _ => false

theorem readable_of_readableB {i : Instr} {s : State} (h : readableB i s = true) : OperandReadable i s := by
  intro x1 s1 hr
  rw [readableB, hr] at h
  simpa [Bool.or_eq_true, or_assoc] using h

theorem writable_of_writableB {i : Instr} {s : State} (h : writableB i s = true) : OperandWritable i s := by
  intro x1 s1 hr
  rw [writableB, hr] at h
  exact h

theorem modifiable_of_modifiableB {i : Instr} {s : State} (h : modifiableB i s = true) : ModifyWritable i s := by
  rintro x1 m t ⟨s1, hr, ho⟩
  rw [modifiableB, hr] at h
  simp only [ho] at h
  exact h

/-- The flat map with `X` and `Y` at their largest. -/
def wide : State := { State.reset with x := 0xFF, y := 0xFF }

theorem reset_inv : StateInv State.reset := by constructor <;> decide

theorem nes_inv : StateInv nes := by constructor <;> decide

theorem witness_DecodeOfEncode : Instr.WellFormed (.bne (-128)) = true ∧ Instr.WellFormed (.bne 127) = true ∧
    Instr.WellFormed (.jsr 0xFFFF) = true := by decide

theorem witness_EncodeOfDecode : decode [0xD0, 0x80] = some (.bne (-128), []) ∧
    decode [0xD0, 0x7F, 0x00] = some (.bne 127, [0x00]) := by decide

theorem witness_UndefinedOpcodesFault : ∃ s t : State, ∃ op : Byte, s.rem = 0 ∧ memRead s.pc s = .next (op, t) ∧
    op ∈ undefinedOpcodes ∧ op ∉ s.config.extraOpcodes :=
  ⟨at_ 0x0200 [0xFF] State.reset, at_ 0x0200 [0xFF] State.reset, 0xFF, rfl, rfl, by decide, by decide⟩

theorem witness_RegisterAndImmediateModes :
    (∃ s t, fetch s = .next (.tax, t)) ∧ (∃ s t, fetch s = .next (.aslAcc, t)) ∧
    (∃ s t, fetch s = .next (.ldaImm 0xFF, t)) ∧ (∃ s t, fetch s = .next (.bne (-128), t)) :=
  ⟨⟨at_ 0xFFFF [0xAA] wide, _, rfl⟩, ⟨at_ 0xFFFF [0x0A] wide, _, rfl⟩, ⟨at_ 0xFFFF [0xA9, 0xFF] wide, _, rfl⟩,
    ⟨at_ 0xFFFF [0xD0, 0x80] wide, _, rfl⟩⟩

theorem witness_ZeroPageModes :
    (∃ s t, fetch s = .next (.ldaZp 0xFF, t)) ∧ (∃ s t, fetch s = .next (.ldaZpx 0xFF, t) ∧ t.x = 0xFF) ∧
    (∃ s t, fetch s = .next (.ldxZpy 0xFF, t) ∧ t.y = 0xFF) :=
  ⟨⟨at_ 0xFFFF [0xA5, 0xFF] wide, _, rfl⟩, ⟨at_ 0xFFFF [0xB5, 0xFF] wide, _, rfl, rfl⟩,
    ⟨at_ 0xFFFF [0xB6, 0xFF] wide, _, rfl, rfl⟩⟩

theorem witness_AbsoluteModes :
    (∃ s t, fetch s = .next (.ldaAbs 0xFFFF, t)) ∧ (∃ s t, fetch s = .next (.ldaAbx 0xFFFF, t) ∧ t.x = 0xFF) ∧
    (∃ s t, fetch s = .next (.ldaAby 0x0200, t) ∧ t.y = 0xFF) :=
  ⟨⟨at_ 0xFFFE [0xAD, 0xFF, 0xFF] wide, _, rfl⟩, ⟨at_ 0xFFFE [0xBD, 0xFF, 0xFF] wide, _, rfl, rfl⟩,
    ⟨at_ 0xFFFE [0xB9, 0x00, 0x02] wide, _, rfl, rfl⟩⟩

theorem witness_PointerModes :
    (∃ s t, fetch s = .next (.ldaIzx 0x00, t) ∧ t.x = 0xFF) ∧
    (∃ s t, fetch s = .next (.ldaIzy 0xFF, t) ∧ t.y = 0xFF) :=
  ⟨⟨at_ 0xFFFF [0xA1, 0x00] wide, _, rfl, rfl⟩, ⟨at_ 0xFFFF [0xB1, 0xFF] wide, _, rfl, rfl⟩⟩

theorem witness_LoadsWriteRegisterAndZN : OperandReadable (.ldaAbs 0x4017) nes ∧
    OperandReadable (.ldaAbx 0xFFFF) wide ∧ OperandReadable (.ldxImm 0xFF) nes ∧ OperandReadable (.ldyZp 0xFF) nes :=
  ⟨readable_of_readableB (by decide), readable_of_readableB (by decide), readable_of_readableB (by decide),
    readable_of_readableB (by decide)⟩

theorem witness_StoresWriteRegisterAtEa : OperandWritable (.staAbs 0x4017) nes ∧
    OperandWritable (.staIzy 0xFF) wide ∧ OperandWritable (.stxZpy 0xFF) wide ∧ OperandWritable (.styAbs 0x1FFF) nes :=
  ⟨writable_of_writableB (by decide), writable_of_writableB (by decide), writable_of_writableB (by decide),
    writable_of_writableB (by decide)⟩

theorem witness_ConsoleAccessFaults : nes.config.bus = .nesNrom ∧ nes.config.prgRamPresent = false ∧
    (∃ s1, Resolves (.staAbs 0x8000) nes 0 s1 ∧ s1.ea = 0x8000) ∧
    (∃ s1, Resolves (.stxAbs 0x4018) nes 0 s1 ∧ s1.ea = 0x4018) ∧
    (∃ s1, Resolves (.styAbs 0x7FFF) nes 0 s1 ∧ s1.ea = 0x7FFF) ∧
    (∃ s1, Resolves (.ldaAbs 0x5FFF) nes 0 s1 ∧ s1.ea = 0x5FFF) ∧
    (∃ s1, Resolves (.ldxAbs 0x6000) nes 0 s1 ∧ s1.ea = 0x6000) :=
  ⟨rfl, rfl, ⟨_, rfl, rfl⟩, ⟨_, rfl, rfl⟩, ⟨_, rfl, rfl⟩, ⟨_, rfl, rfl⟩, ⟨_, rfl, rfl⟩⟩

theorem witness_AddAndSubtractWithCarry : OperandReadable (.adcImm 0xFF) nes ∧ OperandReadable (.sbcAbx 0xFFFF) wide :=
  ⟨readable_of_readableB (by decide), readable_of_readableB (by decide)⟩

theorem witness_CarryAndOverflowMeanings :
    (∃ t u, OperandGives (.adcImm 0x01) { nes with a := 0x7F } 0 0x01 t ∧
      exec (.adcImm 0x01) { nes with a := 0x7F } = .next u) ∧
    (∃ t u, OperandGives (.sbcImm 0x01) { nes with a := 0x80 } 0 0x01 t ∧
      exec (.sbcImm 0x01) { nes with a := 0x80 } = .next u) :=
  ⟨⟨_, _, ⟨_, rfl, rfl⟩, rfl⟩, ⟨_, _, ⟨_, rfl, rfl⟩, rfl⟩⟩

theorem witness_LogicWritesAAndZN : OperandReadable (.andImm 0x80) nes ∧ OperandReadable (.oraIzx 0xFF) wide ∧
    OperandReadable (.eorAbs 0x4017) nes :=
  ⟨readable_of_readableB (by decide), readable_of_readableB (by decide), readable_of_readableB (by decide)⟩

theorem witness_ComparesAndBitTest : OperandReadable (.cmpAby 0xFFFF) wide ∧ OperandReadable (.cpxImm 0xFF) nes ∧
    OperandReadable (.cpyZp 0xFF) nes ∧ OperandReadable (.bitAbs 0x2002) nes :=
  ⟨readable_of_readableB (by decide), readable_of_readableB (by decide), readable_of_readableB (by decide),
    readable_of_readableB (by decide)⟩

theorem witness_MemoryShifts :
    (OperandReadable (.aslZpx 0xFF) wide ∧ ModifyWritable (.aslZpx 0xFF) wide) ∧
    (OperandReadable (.lsrAbs 0x4017) nes ∧ ModifyWritable (.lsrAbs 0x4017) nes) ∧
    (OperandReadable (.rolAbx 0xFFFF) wide ∧ ModifyWritable (.rolAbx 0xFFFF) wide) ∧
    (OperandReadable (.rorZp 0xFF) nes ∧ ModifyWritable (.rorZp 0xFF) nes) :=
  ⟨⟨readable_of_readableB (by decide), modifiable_of_modifiableB (by decide)⟩,
    ⟨readable_of_readableB (by decide), modifiable_of_modifiableB (by decide)⟩,
    ⟨readable_of_readableB (by decide), modifiable_of_modifiableB (by decide)⟩,
    ⟨readable_of_readableB (by decide), modifiable_of_modifiableB (by decide)⟩⟩

theorem witness_MemoryIncrementAndDecrement :
    (OperandReadable (.incAbs 0x1FFF) nes ∧ ModifyWritable (.incAbs 0x1FFF) nes) ∧
    (OperandReadable (.decAbx 0xFFFF) wide ∧ ModifyWritable (.decAbx 0xFFFF) wide) :=
  ⟨⟨readable_of_readableB (by decide), modifiable_of_modifiableB (by decide)⟩,
    ⟨readable_of_readableB (by decide), modifiable_of_modifiableB (by decide)⟩⟩

theorem witness_JumpsGoToEa : Readable 0x02FF nes = true ∧ Readable 0x0200 nes = true ∧
    BitVec.ofNat 16 (0x02FF / 256 * 256 + (0x02FF + 1) % 256) = 0x0200#16 := by decide

theorem witness_ReturnsUndoCallsAndEntries :
    (∃ t v, exec (.jsr 0xFFFF) State.reset = .next t ∧ exec .rts t = .next v) ∧
    (∃ t v, nmiEntry State.reset = .next t ∧ exec .rti t = .next v) ∧
    (∃ t v, irqEntry State.reset = .next t ∧ exec .rti t = .next v) ∧
    (∃ t v, exec .brk State.reset = .next t ∧ exec .rti t = .next v) :=
  ⟨⟨_, _, rfl, rfl⟩, ⟨_, _, rfl, rfl⟩, ⟨_, _, rfl, rfl⟩, ⟨_, _, rfl, rfl⟩⟩

/-- The NOP at 0x0200, in the flat map. -/
def idle : State := at_ 0x0200 [0xEA] State.reset

/-- `idle` with a tick and then an acknowledgement scheduled. -/
def scheduled : State := { idle with host := [.systemTick, .ackFrame] }

theorem ticks_idle : Ticks idle idle := .inl ⟨rfl, rfl⟩

theorem ticks_scheduled : Ticks scheduled { idle with host := [.ackFrame] } := .inr ⟨rfl, rfl⟩

theorem idle_runs : RunsInstruction idle := by unfold RunsInstruction; decide

/-- `idle` asks for an NMI at its own vertical blank, two PPU clocks on. -/
def nmiNow : State := { idle with scanline := 241, cycle := 0, ppuctrl := 0x80 }

theorem witness_TickRetiresOrDelivers :
    (Ticks idle idle ∧ Ticks scheduled { idle with host := [.ackFrame] } ∧ latchedFault scheduled = none ∧
      RunsInstruction idle) ∧
    (∃ u t, fetch (ppuTicks idle) = .next (.nop, u) ∧ exec .nop u = .next t) ∧
    (Ticks nmiNow nmiNow ∧ latchedFault nmiNow = none ∧ nmiNow.rem = 0 ∧ (ppuTicks nmiNow).nmi = true ∧
      0 < nmiNow.config.nmiCycles) ∧
    ({ idle with irq := true, p := Flags.unpack 0x20 }.p.i = false ∧
      (ppuTicks { idle with irq := true, p := Flags.unpack 0x20 }).nmi = false) ∧
    0 < idle.config.irqCycles :=
  ⟨⟨ticks_idle, ticks_scheduled, rfl, idle_runs⟩, ⟨_, _, rfl, rfl⟩,
    ⟨.inl ⟨rfl, rfl⟩, rfl, rfl, by decide, by decide⟩, by decide, by decide⟩

theorem witness_TickRetires : Ticks { idle with rem := 1 } { idle with rem := 1 } ∧
    latchedFault { idle with rem := 1 } = none ∧ { idle with rem := 1 }.rem ≠ 0 := ⟨.inl ⟨rfl, rfl⟩, rfl, by decide⟩

/-- A store to program ROM, in RAM of the console map. -/
def romStore : State := at_ 0x0200 [0x8D, 0x00, 0x80] nes

theorem witness_StepRunsDecodedInstruction :
    (RunsInstruction (at_ 0xFFFF [0xD0, 0x80] State.reset) ∧ Instr.WellFormed (.bne (-128)) = true ∧
      HoldsBytes 0xFFFF (encode (.bne (-128))) (at_ 0xFFFF [0xD0, 0x80] State.reset)) ∧
    (∃ t, exec (.bne (-128)) (ppuTicks (at_ 0xFFFF [0xD0, 0x80] State.reset)) = .next t) ∧
    (Ticks romStore romStore ∧ RunsInstruction romStore ∧ HoldsBytes 0x0200 (encode (.staAbs 0x8000)) romStore ∧
      ∃ f, exec (.staAbs 0x8000) (ppuTicks romStore) = .fault f) :=
  ⟨⟨by unfold RunsInstruction; decide, by decide, ⟨rfl, rfl, trivial⟩⟩, ⟨_, rfl⟩,
    .inl ⟨rfl, rfl⟩, by unfold RunsInstruction; decide, ⟨rfl, rfl, rfl, trivial⟩, ⟨_, rfl⟩⟩

theorem witness_RegisterFrame : (∃ t, exec (.staAbs 0x2000) nes = .next t) ∧ (∃ t, exec .rti nes = .next t) ∧
    writesA .sta .abs = false ∧ transfersControl .sta = false := ⟨⟨_, rfl⟩, ⟨_, rfl⟩, rfl, rfl⟩

theorem witness_FlagFrame : (∃ t, exec (.incAbs 0x2007) { nes with v := 0x3F00 } = .next t) ∧
    writesC .inc = false ∧ writesV .inc = false := ⟨⟨_, rfl⟩, rfl, rfl⟩

theorem witness_FormsThatStoreNothing :
    (∃ t, exec (.ldaAbs 0x2002) nes = .next t) ∧
    (∃ t s1, exec (.ldaAbs 0x1FFF) nes = .next t ∧ Resolves (.ldaAbs 0x1FFF) nes 0 s1 ∧
      route nes.config s1.ea = .ram 0x07FF) ∧
    (∃ t, exec .aslAcc nes = .next t) ∧ storesAtEa .lda .abs = false ∧ storesAtEa .asl .acc = false :=
  ⟨⟨_, rfl⟩, ⟨_, _, rfl, rfl, rfl⟩, ⟨_, rfl⟩, rfl, rfl⟩

theorem witness_FormsThatStoreAtEa :
    (∃ t s1, exec (.staAbs 0x1FFF) nes = .next t ∧ Resolves (.staAbs 0x1FFF) nes 0 s1 ∧
      route nes.config s1.ea = .ram 0x07FF ∧ route nes.config 0x07FE ≠ .ram 0x07FF) ∧
    (∃ t s1, exec (.rorAbs 0x4017) nes = .next t ∧ Resolves (.rorAbs 0x4017) nes 0 s1) :=
  ⟨⟨_, _, rfl, rfl, rfl, by decide⟩, ⟨_, _, rfl, rfl⟩⟩

theorem witness_FormsThatStoreOnTheStack :
    (∃ t, exec .pha nes = .next t) ∧ (∃ t, exec .brk { nes with sp := 0x01 } = .next t) ∧
    (∀ k, k < pushCount .brk →
      route nes.config 0x0102 ≠ route nes.config (stackAddr ((0x01 : Byte) - BitVec.ofNat 8 k))) :=
  ⟨⟨_, rfl⟩, ⟨_, rfl⟩, by decide⟩

theorem witness_InstructionsLeaveTimingAndPorts : ∃ t, exec (.ldaAbs 0x2002) { nes with nmi := true } = .next t :=
  ⟨_, rfl⟩

theorem witness_FlatMemoryNeverFaults : StateInv State.reset ∧ State.reset.config.bus = .flat64k ∧
    (0x0000 : Word) ≠ 0xFFFF := ⟨reset_inv, rfl, by decide⟩

/-- The values where the clauses of the two statements about the console map meet. -/
theorem witness_ConsoleReads : nes.config.bus = .nesNrom ∧
    [0x0000, 0x1FFF, 0x2000, 0x3FFF, 0x4000, 0x4017, 0x4018, 0x5FFF, 0x6000, 0x7FFF, 0x8000, 0xFFFF].map
      (route nes.config) =
    [.ram 0, .ram 0x07FF, .ppuReg 0, .ppuReg 7, .apu, .apu, .unmapped, .unmapped, .unmapped, .unmapped,
      .prgRom 0, .prgRom 0x7FFF] := by decide

theorem witness_ConsoleWrites :
    faults (memWrite 0x4018 0 nes) (.invalidBusAddress .cpu 0x4018) = true ∧
    faults (memWrite 0x7FFF 0 nes) (.invalidBusAddress .cpu 0x7FFF) = true ∧
    faults (memWrite 0x8000 0 nes) (.readOnlyViolation .cpu 0x8000) = true ∧
    answers (memWrite 0x4017 1 nes) (fun t => decide (t = nes)) = true ∧
    answers (memWrite 0x1FFF 1 nes) (fun t => decide (t = { nes with ram := [(0x07FF, 1)] })) = true := by decide

theorem witness_WriteThenRead : StateInv nes ∧ plainByte 0x1FFF nes = some 0x00 ∧
    (∃ t, memWrite 0x1FFF 0x5A nes = .next t) ∧ route nes.config 0x07FF = route nes.config 0x1FFF ∧
    route nes.config 0x0000 ≠ route nes.config 0x1FFF := ⟨nes_inv, rfl, ⟨_, rfl⟩, by decide, by decide⟩

theorem witness_StatusReadClearsVblankAndLatch : { nes with vblank := true, w := true }.ppuFault = none := rfl

theorem witness_PlainPpuRegisters : { nes with oamAddr := 0xFF, w := true }.ppuFault = none ∧
    { nes with ppuFault := some (.readOnlyViolation .ppu 0) }.ppuFault ≠ none := by decide

theorem witness_AddressWritesSetV : { nes with v := 0x3FFF }.w = false ∧ { nes with v := 0x3FFF, w := true }.w = true ∧
    { nes with v := 0x3FFF }.ppuFault = none := by decide

theorem witness_DataAccessesAdvanceV :
    ({ nes with v := 0x3EFF }.ppuFault = none ∧ 0x2000 ≤ { nes with v := 0x3EFF }.v.toNat) ∧
    (0x3F00 ≤ { nes with v := 0x3F00 }.v.toNat) ∧
    ({ nes with v := 0x1FFF }.v.toNat < 0x2000 ∧ { nes with v := 0x1FFF }.config.chrWritable = false) ∧
    { nes with config := { nes.config with chrWritable := true } }.config.chrWritable = true := by decide

/-- The values where the clauses of the statement meet, and the cells the spec gives them (48 R342 to R345). -/
theorem witness_PpuBusMirrors :
    [0x0000, 0x1FFF, 0x2000, 0x2FFF, 0x3000, 0x3EFF, 0x3F00, 0x3F01, 0x3F10, 0x3F11, 0x3F1C, 0x3FFF].map
      (ppuRoute nes.config) =
    [.chr 0, .chr 0x1FFF, .nt 0, .nt 0x3FF, .nt 0, .nt 0x2FF, .pal 0, .pal 1, .pal 0, .pal 0x11, .pal 0x0C,
      .pal 0x1F] := by decide

theorem witness_PpuWriteThenRead : StateInv nes ∧ (∃ t, ppuWrite 0x3F10 0x11 nes = .next t) ∧
    ppuRoute nes.config 0x3FF0 = ppuRoute nes.config 0x3F10 ∧ ppuRoute nes.config 0x3F01 ≠ ppuRoute nes.config 0x3F10 :=
  ⟨nes_inv, ⟨_, rfl⟩, by decide, by decide⟩

/-- The least and the greatest position, and the ends of a line and of a frame. -/
theorem witness_PpuClockTick : [((-1 : Int), 0), (-1, 1), (241, 1), (0, 340), (260, 340)].all
    (fun q => decide (0 ≤ q.1 + 1) && decide (q.1 ≤ 260) && decide (q.2 ≤ 340)) = true ∧ nes.ppuFault = none := by decide

theorem witness_FrameCadence : nes.ppuFault = none ∧ nes.scanline = -1 ∧ nes.cycle = 0 ∧ nes.frameComplete = false := by
  decide

theorem witness_BackgroundPixel : 255 < 256 ∧ 239 < 240 := by decide

theorem witness_SpriteColourIndex : 0 < 64 ∧ covers 0 7 0 (r383 0x61) = true ∧ covers 0 0 7 (r383 0x21) = true := by
  decide

/-- `r383` with its sprite last and the 63 others below the picture. -/
def lastSprite : State := { r383 0x21 with
  oam := (List.range 63).map (fun i => (4 * i, 0xF0)) ++ [(253, 0x02), (254, 0x21)] }

theorem witness_SpriteChoiceAndComposition :
    foreground 0 0 lastSprite = some 63 ∧ (background 0 0 lastSprite).1 ≠ 0 ∧ foreground 1 0 lastSprite = some 63 ∧
    (background 1 0 lastSprite).1 = 0 ∧ foreground 2 0 lastSprite = none ∧
    { nes with config := { nes.config with maskGates := true } }.ppumask.getLsbD 4 = false := by decide

theorem witness_PixelIsAPureFunction :
    let t := { nes with ppuctrl := 0x80, oamAddr := 0xFF, w := true }
    nes.config = t.config ∧ nes.nt = t.nt ∧ nes.pal = t.pal ∧ nes.oam = t.oam ∧ nes.chr = t.chr ∧
    nes.ppuctrl.getLsbD 4 = t.ppuctrl.getLsbD 4 ∧ nes.ppuctrl.getLsbD 3 = t.ppuctrl.getLsbD 3 := by decide

theorem witness_RequestFlagsAreSticky :
    (∃ t, Ticks idle idle ∧ step { idle with frameComplete := true } = .next t) ∧
    (∃ t, Ticks scheduled { idle with host := [.ackFrame] } ∧ step scheduled = .next t) ∧
    (∃ t, step { idle with nmi := true, rem := 1 } = .next t) ∧
    answers (step { nmiNow with rem := 1 }) (fun t => t.nmi) = true :=
  ⟨⟨_, ticks_idle, rfl⟩, ⟨_, ticks_scheduled, rfl⟩, ⟨_, rfl⟩, by decide⟩

theorem witness_CpuResetStrobes :
    { nes with host := [.powerUp] }.host = .powerUp :: [] ∧ { nes with host := [.warmReset] }.host = .warmReset :: [] ∧
    { nes with cpuFault := some (.unknownOpcode 0x02), host := [.warmReset] }.cpuFault ≠ none := by decide

theorem witness_PpuResetStrobe : { nes with host := [.ppuReset] }.host = .ppuReset :: [] := rfl

theorem witness_FaultsAreFinal :
    (latchedFault { nes with ppuFault := some (.readOnlyViolation .ppu 0) } = some (.readOnlyViolation .ppu 0)) ∧
    latchedFault { nes with ppuFault := some (.readOnlyViolation .ppu 0), host := [.cpuClock] } ≠ none ∧
    (Ticks romStore romStore ∧ latchedFault romStore = none ∧
      systemTick romStore = .fault (.readOnlyViolation .cpu 0x8000)) ∧
    systemTick (at_ 0x0200 [0x8D, 0x07, 0x20] nes) = .fault (.readOnlyViolation .ppu 0x0000) :=
  ⟨rfl, by decide, ⟨.inl ⟨rfl, rfl⟩, rfl, rfl⟩, rfl⟩

theorem witness_HarnessRoundTrip : ∃ h : Harness, StateInv State.reset ∧ State.reset.config.bus = .flat64k ∧
    (h.ram.map (·.1)).Nodup ∧ h.ram ≠ [] ∧ ∃ t, step { State.reset with host := [.load h] } = .next t :=
  ⟨{ dflt with p := 0x04, ram := [(0x0000, 0x01), (0xFFFF, 0x00)] }, reset_inv, rfl, by decide, by decide, _, rfl⟩

theorem witness_StepKeepsInvariant : StateInv State.reset ∧ StateInv nes ∧ (∃ t, step State.reset = .next t) ∧
    (∃ t, step { nes with host := [.powerUp] } = .next t) := ⟨reset_inv, nes_inv, ⟨_, rfl⟩, ⟨_, rfl⟩⟩

end Sys2Proof.Tests
end

section
/-! Every step keeps the invariant (10 R34, R40, R48; 20 R67, R69): each operation a step is made of keeps it;
and the reset state has it (10 R38, R51). -/

namespace Sys2Proof.Machine

/-- The invariant from `Keeps` and the bound on the remaining cycles. -/
theorem StateInv.of_keeps {s t : State} (hi : StateInv s) (hk : Keeps s t) (hr : t.rem ≤ remMax s.config) :
    StateInv t :=
  hi.of_parts hk.1 (hk.2 hi.config hi.memories) hr

theorem AfterRead.rem {s t : State} (h : AfterRead s t) : t.rem = s.rem := by
  rw [AfterRead] at h
  rw [h]

theorem AfterRead.inv {s t : State} (h : AfterRead s t) (hi : StateInv s) : StateInv t :=
  hi.of_keeps h.keeps (h.rem ▸ hi.rem)

theorem read16_afterRead {addr w : Word} {s t : State} (h : read16 addr s = .next (w, t)) : AfterRead s t := by
  simp only [read16, andThen_eq_next] at h
  obtain ⟨⟨lo, u⟩, hlo, ⟨hi, v⟩, hhi, e⟩ := h
  cases e
  exact (memRead_afterRead hlo).trans (memRead_afterRead hhi)

/-- Loading `PC` from memory. -/
theorem loadPc_inv {addr : Word} {s t : State}
    (h : andThen (read16 addr s) (fun r => .next { r.2 with pc := r.1 }) = .next t) (hi : StateInv s) :
    StateInv t := by
  obtain ⟨⟨w, u⟩, hread, e⟩ := andThen_eq_next.1 h
  cases e
  have hu := (read16_afterRead hread).inv hi
  exact { hu with }

/-! ## Interrupt entries and the CPU's clock -/

theorem enterVector_keeps {ret vector : Word} {flags : Byte} {s t : State} (h0 : 0x8000 ≤ vector.toNat)
    (h1 : 0x8000 ≤ (vector + 1#16).toNat) (h : enterVector ret flags vector s = .next t) : Keeps s t := by
  obtain ⟨lo, hlo⟩ := plainByte_high_isSome s h0
  obtain ⟨hi, hhi⟩ := plainByte_high_isSome s h1
  rw [enterVector_eq h0 h1 hlo hhi] at h
  cases h
  exact (entryRam_keeps ret flags s).trans (.of_eq rfl rfl rfl rfl rfl rfl rfl rfl rfl rfl)

/-- An entry that stores cycles the configuration bounds. -/
theorem entry_inv {ret vector : Word} {flags : Byte} {cycles : Config → Nat} {s t : State} (hi : StateInv s)
    (h0 : 0x8000 ≤ vector.toNat) (h1 : 0x8000 ≤ (vector + 1#16).toNat)
    (hc : cycles s.config ≤ remMax s.config)
    (h : andThen (enterVector ret flags vector s) (fun u => .next { u with rem := cycles u.config }) = .next t) :
    StateInv t := by
  obtain ⟨u, henter, e⟩ := andThen_eq_next.1 h
  cases e
  have hk := enterVector_keeps h0 h1 henter
  refine hi.of_keeps (hk.trans (.of_eq rfl rfl rfl rfl rfl rfl rfl rfl rfl rfl)) ?_
  show cycles u.config ≤ remMax s.config
  rw [hk.1.config]
  exact hc

theorem nmiEntry_inv {s t : State} (hi : StateInv s) (h : nmiEntry s = .next t) : StateInv t :=
  entry_inv (cycles := Config.nmiCycles) hi (by decide) (by decide) (by rw [remMax]; omega) h

theorem irqEntry_inv {s t : State} (hi : StateInv s) (h : irqEntry s = .next t) : StateInv t :=
  entry_inv (cycles := Config.irqCycles) hi (by decide) (by decide) (by rw [remMax]; omega) h

theorem cpuClock_inv {s t : State} (hi : StateInv s) (h : cpuClock s = .next t) : StateInv t := by
  unfold cpuClock at h
  split at h
  · obtain ⟨⟨i, u⟩, hfetch, hexec⟩ := andThen_eq_next.1 h
    exact exec_inv ((fetch_afterRead hfetch).inv hi) hexec
  · cases h
    exact { hi with rem := Nat.le_trans (Nat.sub_le ..) hi.rem }

theorem ppuTicks_inv {s : State} (hi : StateInv s) : StateInv (ppuTicks s) :=
  ppuClock_inv (ppuClock_inv (ppuClock_inv hi))

theorem deliver_inv {s t : State} (hi : StateInv s) (h : deliver s = .next t) : StateInv t := by
  unfold deliver at h
  split at h
  · split at h
    · exact nmiEntry_inv (s := { s with nmi := false }) { hi with } h
    · split at h
      · exact irqEntry_inv hi h
      · cases h; exact hi
  · cases h; exact hi

theorem systemTick_inv {s t : State} (hi : StateInv s) (h : systemTick s = .next t) : StateInv t := by
  obtain ⟨u, hdeliver, hclock⟩ := andThen_eq_next.1 h
  exact cpuClock_inv (deliver_inv (ppuTicks_inv hi) hdeliver) hclock

/-! ## The host's calls -/

theorem powerUp_inv {s t : State} (hi : StateInv s) (h : powerUp s = .next t) : StateInv t :=
  loadPc_inv h { hi with rem := Nat.zero_le _ }

theorem warmReset_inv {s t : State} (hi : StateInv s) (h : warmReset s = .next t) : StateInv t := by
  unfold warmReset at h
  split at h
  · cases h; exact hi
  · exact loadPc_inv h { hi with rem := Nat.zero_le _ }

theorem ppuReset_inv {s : State} (hi : StateInv s) : StateInv (ppuReset s) :=
  { hi with cycle := Nat.zero_le _, scanline := (by decide : (-1 : Int) ≤ -1 ∧ (-1 : Int) ≤ 260) }

theorem nmiStrobe_inv {s t : State} (hi : StateInv s) (h : nmiStrobe s = .next t) : StateInv t := by
  unfold nmiStrobe at h
  split at h
  · exact nmiEntry_inv hi h
  · cases h; exact hi

/-- The lower half of the CPU space reaches no program ROM (20 R67 to R72). -/
theorem route_below_ne_prgRom {c : Config} {addr : Word} (h : addr.toNat < 0x8000) (i : Nat) :
    route c addr ≠ .prgRom i := by
  unfold route nromRoute
  cases c.bus with
  | flat64k => exact nofun
  | nesNrom =>
    dsimp only
    rw [if_pos h]
    repeat' split
    all_goals exact nofun

/-- The index of program ROM an address reaches is within its size. -/
theorem route_prgRom_lt {c : Config} {addr : Word} {i : Nat} (hc : c.WellFormed = true)
    (h : route c addr = .prgRom i) : i < c.prgSize := by
  simp only [Config.WellFormed, Bool.and_eq_true, decide_eq_true_eq] at hc
  obtain ⟨⟨hpos, -⟩, -⟩ := hc
  by_cases haddr : 0x8000 ≤ addr.toNat
  · rw [route_high haddr] at h
    cases hb : c.bus <;> rw [hb] at h
    · nomatch h
    · exact Place.prgRom.inj h ▸ Nat.mod_lt _ hpos
  · exact absurd h (route_below_ne_prgRom (Nat.lt_of_not_le haddr) i)

theorem poke_inv (addr : Word) (value : Byte) {s : State} (hi : StateInv s) : StateInv (poke addr value s) := by
  unfold poke
  split
  case h_1 hr => exact { hi with ram := hi.ram.write (route_ram_lt hr) value }
  case h_2 hr => exact { hi with prgRam := hi.prgRam.write (route_prgRam_lt hr) value }
  case h_3 hr => exact { hi with prgRom := hi.prgRom.write (route_prgRom_lt hi.config hr) value }
  case h_4 => exact hi

theorem pokes_inv : ∀ (cs : List (Word × Byte)) {s : State}, StateInv s → StateInv (pokes cs s)
  | [], _, hi => hi
  | c :: cs, _, hi => pokes_inv cs (poke_inv c.1 c.2 hi)

theorem harnessLoad_inv (h : Harness) {s : State} (hi : StateInv s) : StateInv (harnessLoad h s) :=
  pokes_inv h.ram { hi with rem := Nat.zero_le _ }

theorem unlessLatched_inv {op : State → Res State} {s t : State} (hi : StateInv s)
    (hop : op s = .next t → StateInv t) (h : unlessLatched op s = .next t) : StateInv t := by
  rcases unlessLatched_next h with rfl | h
  · exact hi
  · exact hop h

theorem hostStrobe_inv {cmd : HostCmd} {s t : State} (hi : StateInv s) (h : hostStrobe cmd s = .next t) :
    StateInv t := by
  cases cmd with
  | systemTick => exact unlessLatched_inv hi (systemTick_inv hi) h
  | powerUp => exact powerUp_inv hi h
  | warmReset => exact warmReset_inv hi h
  | ppuReset => cases h; exact ppuReset_inv hi
  | nmiStrobe => exact nmiStrobe_inv hi h
  | setIrq level => cases h; exact { hi with }
  | ackFrame => cases h; exact { hi with }
  | cpuClock => exact unlessLatched_inv hi (cpuClock_inv hi) h
  | load m => cases h; exact harnessLoad_inv m hi

/-! ## The step -/

theorem latchFault_inv (f : Fault) {s : State} (hi : StateInv s) : StateInv (latchFault f s) := by
  unfold latchFault
  split <;> exact { hi with }

theorem settle_inv {s t : State} {r : Res State} (hi : StateInv s) (hr : ∀ u, r = .next u → StateInv u)
    (h : settle s r = .next t) : StateInv t := by
  cases r with
  | next u => cases h; exact hr t rfl
  | fault f => cases h; exact latchFault_inv f hi
  | refused e => cases h

theorem step_inv {s t : State} (hi : StateInv s) (h : step s = .next t) : StateInv t := by
  cases hh : s.host with
  | cons cmd rest =>
    rw [step_host hh] at h
    have hi' : StateInv { s with host := rest } := { hi with }
    exact settle_inv hi' (fun _ hu => hostStrobe_inv hi' hu) h
  | nil =>
    cases hf : latchedFault s with
    | some f => rw [step_latched hh hf] at h; cases h
    | none =>
      rw [step_tick hh hf] at h
      exact settle_inv hi (fun _ hu => systemTick_inv hi hu) h

/-- Settles O60: a step is a host call or a system tick, and each part of either keeps the invariant. -/
theorem stepKeepsInvariant : Obligations.StepKeepsInvariant := by
  intro s t hi h
  exact step_inv hi h

/-! ## The reset state -/

/-- Every memory is empty and every counter at its start, in the default configuration. -/
theorem stateReset_inv : StateInv State.reset where
  config := by decide
  rem := Nat.zero_le _
  cycle := Nat.zero_le _
  scanline := by decide
  ram := Memory.wf_nil _
  prgRam := Memory.wf_nil _
  prgRom := Memory.wf_nil _
  chr := Memory.wf_nil _
  nt := Memory.wf_nil _
  pal := ⟨Memory.wf_nil _, nofun⟩
  oam := Memory.wf_nil _

/-- Settles O57: the values are those of `State.reset`'s definition, and they meet the invariant. -/
theorem resetState : Obligations.ResetState :=
  ⟨rfl, rfl, rfl, rfl, rfl, rfl, rfl, rfl, rfl, rfl, rfl, rfl, rfl, rfl, rfl, rfl, stateReset_inv⟩

end Sys2Proof.Machine
end

section
/-! What an instruction leaves of the registers and flags (10 R20 to R26): each handler's frame, by its shape. -/

namespace Sys2Proof.Machine

/-- From `s` to `t` the registers, `PC` and the flags that mnemonic `k` in mode `m` is not listed as writing are
as before (10 R20, R21, R23, R26). -/
structure CpuFrame (k : Mnemonic) (m : Mode) (s t : State) : Prop where
  a : writesA k m = false → t.a = s.a
  x : writesX k = false → t.x = s.x
  y : writesY k = false → t.y = s.y
  sp : writesS k = false → t.sp = s.sp
  pc : transfersControl k = false → t.pc = s.pc
  c : writesC k = false → t.p.c = s.p.c
  z : writesZN k = false → t.p.z = s.p.z
  n : writesZN k = false → t.p.n = s.p.n
  i : writesI k = false → t.p.i = s.p.i
  d : writesD k = false → t.p.d = s.p.d
  b : writesB k = false → t.p.b = s.p.b
  v : writesV k = false → t.p.v = s.p.v

theorem CpuFrame.trans {k : Mnemonic} {m : Mode} {s t u : State} (h : CpuFrame k m s t) (h' : CpuFrame k m t u) :
    CpuFrame k m s u where
  a w := (h'.a w).trans (h.a w)
  x w := (h'.x w).trans (h.x w)
  y w := (h'.y w).trans (h.y w)
  sp w := (h'.sp w).trans (h.sp w)
  pc w := (h'.pc w).trans (h.pc w)
  c w := (h'.c w).trans (h.c w)
  z w := (h'.z w).trans (h.z w)
  n w := (h'.n w).trans (h.n w)
  i w := (h'.i w).trans (h.i w)
  d w := (h'.d w).trans (h.d w)
  b w := (h'.b w).trans (h.b w)
  v w := (h'.v w).trans (h.v w)

theorem writesA_of_isShift {k : Mnemonic} (h : isShift k = true) : writesA k .acc = true := by
  cases k <;> first | rfl | nomatch h

theorem transfersControl_of_isBranch {k : Mnemonic} (h : isBranch k = true) : transfersControl k = true := by
  cases k <;> first | rfl | nomatch h

section Effects
variable (k : Mnemonic) (m : Mode)

theorem AfterRead.cpuFrame {s t : State} (h : AfterRead s t) : CpuFrame k m s t := by
  rw [AfterRead] at h
  rw [h]
  constructor <;> exact fun _ => rfl

theorem AfterWrite.cpuFrame {s t : State} (h : AfterWrite s t) : CpuFrame k m s t := by
  rw [AfterWrite] at h
  rw [h]
  constructor <;> exact fun _ => rfl

/-! In the effects below each field is as before (`rfl`), or one the mnemonic is listed as writing, so that the
table's `false` is absurd (`nofun`). -/

theorem readEffect_cpuFrame (b : Byte) (s : State) : CpuFrame k m s (readEffect k b s) := by
  unfold readEffect
  split <;> constructor <;> first | exact fun _ => rfl | nofun

theorem registerEffect_cpuFrame (s : State) : CpuFrame k m s (registerEffect k s) := by
  unfold registerEffect
  split <;> constructor <;> first | exact fun _ => rfl | nofun

/-- The flags of a shift, an INC or a DEC. -/
theorem modifiedFlags_cpuFrame (h : isShift k = true ∨ isIncDec k = true) (b : Byte) (s : State) :
    CpuFrame k m s { s with p := modifiedFlags k b s.p } := by
  cases k <;> simp only [isShift, isIncDec, Bool.false_eq_true, or_self] at h
  all_goals constructor <;> first | exact fun _ => rfl | nofun

/-- A shift writes its result to `A` in accumulator mode, and there it is listed for `A`. -/
theorem result_cpuFrame (h : isShift k = true) {v : Byte} {s t : State} (hr : result m v s = .next t) :
    CpuFrame k m s t := by
  unfold result at hr
  split at hr
  next hm =>
    cases hr
    subst hm
    constructor
    case a => exact fun w => nomatch (writesA_of_isShift h).symm.trans w
    all_goals exact fun _ => rfl
  next => exact (memWrite_afterWrite hr).cpuFrame k m

theorem branchIf_cpuFrame (h : isBranch k = true) {c : Bool} {s t : State} {x2 : Nat}
    (hb : branchIf c s = .next (x2, t)) : CpuFrame k m s t := by
  obtain ⟨x, pc, e, -⟩ := branchIf_eq c s
  cases e.symm.trans hb
  constructor
  case pc => exact fun w => nomatch (transfersControl_of_isBranch h).symm.trans w
  all_goals exact fun _ => rfl

end Effects

/-- The handlers of the stack, and BRK and RTI, write `S` and what they are listed for besides. -/
theorem execute_stack_cpuFrame {k : Mnemonic} {m : Mode} {s t : State} {x2 : Nat}
    (hk : k = .pha ∨ k = .php ∨ k = .pla ∨ k = .plp ∨ k = .jsr ∨ k = .rts ∨ k = .brk ∨ k = .rti)
    (h : execute k m s = .next (x2, t)) : CpuFrame k m s t := by
  rcases hk with rfl | rfl | rfl | rfl | rfl | rfl | rfl | rfl
  rotate_left 6 -- to BRK, whose closed form names the vector's bytes
  · obtain ⟨lo, hi, -, -, e⟩ := execute_brk m s
    cases e.symm.trans h
    constructor <;> first | exact fun _ => rfl | nofun
  all_goals
    simp only [execute_pha, execute_php, execute_pla, execute_plp, execute_jsr, execute_rts, execute_rti,
      Host.Outcome.next.injEq, Prod.mk.injEq] at h
    obtain ⟨-, rfl⟩ := h
    constructor <;> first | exact fun _ => rfl | nofun

/-- Every handler keeps the registers and flags its mnemonic is not listed as writing. -/
theorem execute_cpuFrame {k : Mnemonic} {m : Mode} {s t : State} {x2 : Nat} (h : execute k m s = .next (x2, t)) :
    CpuFrame k m s t := by
  rcases mnemonic_shapes k with hk | hk | hk | hk | hk | hk | hk
  · rw [execute_read hk] at h
    obtain ⟨⟨b, u⟩, hread, e⟩ := andThen_eq_next.1 h
    cases e
    exact ((operand_afterRead hread).cpuFrame k m).trans (readEffect_cpuFrame k m b u)
  · rw [execute_store hk] at h
    obtain ⟨u, hwrite, e⟩ := andThen_eq_next.1 h
    cases e
    exact (memWrite_afterWrite hwrite).cpuFrame k m
  · rw [execute_shift hk] at h
    obtain ⟨⟨b, u⟩, hread, h⟩ := andThen_eq_next.1 h
    obtain ⟨v, hresult, e⟩ := andThen_eq_next.1 h
    cases e
    exact (((operand_afterRead hread).cpuFrame k m).trans (modifiedFlags_cpuFrame k m (.inl hk) b u)).trans
      (result_cpuFrame k m hk hresult)
  · rw [execute_incDec hk] at h
    obtain ⟨⟨b, u⟩, hread, h⟩ := andThen_eq_next.1 h
    obtain ⟨v, hwrite, e⟩ := andThen_eq_next.1 h
    cases e
    exact (((memRead_afterRead hread).cpuFrame k m).trans (modifiedFlags_cpuFrame k m (.inr hk) b u)).trans
      ((memWrite_afterWrite hwrite).cpuFrame k m)
  · rw [execute_register hk] at h
    cases h
    exact registerEffect_cpuFrame k m s
  · rw [execute_branch hk] at h
    exact branchIf_cpuFrame k m hk h
  · exact execute_stack_cpuFrame hk h

/-- A resolver leaves the registers and flags, and `PC` past the instruction's bytes (40 R133). -/
theorem Resolves.registers {i : Instr} {s s1 : State} {x1 : Nat} (h : Resolves i s x1 s1) :
    s1.a = s.a ∧ s1.x = s.x ∧ s1.y = s.y ∧ s1.sp = s.sp ∧ s1.p = s.p ∧
      s1.pc = s.pc + BitVec.ofNat 16 i.entry.mode.length := by
  have hpc : s.pc + 1#16 + BitVec.ofNat 16 (i.length - 1) = s.pc + BitVec.ofNat 16 i.entry.mode.length := by
    rw [← length_eq_mode, BitVec.add_assoc, ← BitVec.ofNat_add,
      Nat.add_sub_cancel' (show 1 ≤ i.length from Nat.succ_pos _)]
  rw [resolve_effect h]
  exact ⟨rfl, rfl, rfl, rfl, rfl, hpc⟩

/-- Settles O31: the resolver leaves the registers, and the handler the ones its mnemonic is not listed for. -/
theorem registerFrame : Obligations.RegisterFrame := by
  intro i s t h
  obtain ⟨x1, s1, x2, s2, hres, hexec, rfl⟩ := exec_next h
  obtain ⟨ha, hx, hy, hsp, -, hpc⟩ := hres.registers
  have f := execute_cpuFrame hexec
  exact ⟨fun w => (f.a w).trans ha, fun w => (f.x w).trans hx, fun w => (f.y w).trans hy,
    fun w => (f.sp w).trans hsp, fun w => (f.pc w).trans hpc⟩

/-- Settles O32: the resolver leaves the flags, and the handler the ones its mnemonic is not listed for. -/
theorem flagFrame : Obligations.FlagFrame := by
  intro i s t h
  obtain ⟨x1, s1, x2, s2, hres, hexec, rfl⟩ := exec_next h
  obtain ⟨-, -, -, -, hp, -⟩ := hres.registers
  have f := execute_cpuFrame hexec
  rw [← hp]
  exact ⟨f.c, fun w => ⟨f.z w, f.n w⟩, f.i, f.d, f.b, f.v⟩

end Sys2Proof.Machine
end

section
/-! Packing and unpacking the flags, and their round trips (10 R31, R32). -/

namespace Sys2Proof.Machine

/-- Packing what was unpacked sets bit 5 (10 R32). -/
theorem pack_unpack (b : Byte) : (Flags.unpack b).pack = b ||| 0x20#8 := by
  obtain ⟨h0, h1, h2, h3, h4, h5, h6, h7⟩ := pack_bits (Flags.unpack b)
  apply BitVec.eq_of_getLsbD_eq
  intro k hk
  rw [BitVec.getLsbD_or]
  match k, hk with
  | 0, _ => exact h0.trans (Bool.or_false _).symm
  | 1, _ => exact h1.trans (Bool.or_false _).symm
  | 2, _ => exact h2.trans (Bool.or_false _).symm
  | 3, _ => exact h3.trans (Bool.or_false _).symm
  | 4, _ => exact h4.trans (Bool.or_false _).symm
  | 5, _ => exact h5.trans (Bool.or_true _).symm
  | 6, _ => exact h6.trans (Bool.or_false _).symm
  | 7, _ => exact h7.trans (Bool.or_false _).symm

theorem unpack_pack (p : Flags) : Flags.unpack p.pack = p := by
  obtain ⟨h0, h1, h2, h3, h4, -, h6, h7⟩ := pack_bits p
  rw [Flags.unpack, h0, h1, h2, h3, h4, h6, h7]

/-- The sum of the flags' weights fits a byte, so packing loses nothing. -/
theorem pack_toNat (p : Flags) : p.pack.toNat = p.n.toNat * 128 + p.v.toNat * 64 + 32 + p.b.toNat * 16 +
    p.d.toNat * 8 + p.i.toNat * 4 + p.z.toNat * 2 + p.c.toNat := by
  have hn := p.n.toNat_le
  have hv := p.v.toNat_le
  have hb := p.b.toNat_le
  have hd := p.d.toNat_le
  have hi := p.i.toNat_le
  have hz := p.z.toNat_le
  have hc := p.c.toNat_le
  rw [Flags.pack, BitVec.toNat_ofNat, Nat.mod_eq_of_lt (by omega)]

/-- Settles O41: the packed number, and the round trips bit by bit from `pack_bits`. -/
theorem packAndUnpack : Obligations.PackAndUnpack :=
  ⟨pack_toNat, fun _ => rfl, pack_unpack, unpack_pack⟩

end Sys2Proof.Machine
end

section
/-! The two bus maps, range by range (20 R66 to R73): what an address reaches, what a read and a write of it
do, and which accesses stop. -/

namespace Sys2Proof.Machine

/-! ## The console map -/

section Console
variable {c : Config} {addr : Word} (hb : c.bus = .nesNrom)
include hb

theorem route_nrom_ram (h : addr.toNat < 0x2000) : route c addr = .ram (addr.toNat % 0x800) := by
  simp only [route, hb, nromRoute, if_pos h]

theorem route_nrom_ppuReg (h : 0x2000 ≤ addr.toNat) (h' : addr.toNat < 0x4000) :
    route c addr = .ppuReg (BitVec.ofNat 3 (addr.toNat % 8)) := by
  have e : addr.setWidth 3 = BitVec.ofNat 3 (addr.toNat % 8) := BitVec.eq_of_toNat_eq (by simp)
  simp only [route, hb, nromRoute, if_neg (Nat.not_lt.2 h), if_pos h', e]

theorem route_nrom_apu (h : 0x4000 ≤ addr.toNat) (h' : addr.toNat < 0x4018) : route c addr = .apu := by
  have h1 : ¬ addr.toNat < 0x2000 := by omega
  simp only [route, hb, nromRoute, if_neg h1, if_neg (Nat.not_lt.2 h), if_pos h']

theorem route_nrom_unmapped (h : 0x4018 ≤ addr.toNat) (h' : addr.toNat < 0x6000) : route c addr = .unmapped := by
  have h1 : ¬ addr.toNat < 0x2000 := by omega
  have h2 : ¬ addr.toNat < 0x4000 := by omega
  simp only [route, hb, nromRoute, if_neg h1, if_neg h2, if_neg (Nat.not_lt.2 h), if_pos h']

theorem route_nrom_prgRam (h : 0x6000 ≤ addr.toNat) (h' : addr.toNat < 0x8000) :
    route c addr = if c.prgRamPresent then .prgRam (addr.toNat - 0x6000) else .unmapped := by
  have h1 : ¬ addr.toNat < 0x2000 := by omega
  have h2 : ¬ addr.toNat < 0x4000 := by omega
  have h3 : ¬ addr.toNat < 0x4018 := by omega
  simp only [route, hb, nromRoute, if_neg h1, if_neg h2, if_neg h3, if_neg (Nat.not_lt.2 h), if_pos h']

theorem route_nrom_prgRom (h : 0x8000 ≤ addr.toNat) :
    route c addr = .prgRom ((addr.toNat - 0x8000) % c.prgSize) := by
  rw [route_high h, hb]

/-- The two ranges of the console map that reach nothing (20 R72, R73). -/
theorem route_nrom_nothing (h : 0x4018 ≤ addr.toNat ∧ addr.toNat < 0x6000 ∨
    0x6000 ≤ addr.toNat ∧ addr.toNat < 0x8000 ∧ c.prgRamPresent = false) : route c addr = .unmapped := by
  rcases h with ⟨h, h'⟩ | ⟨h, h', hp⟩
  · exact route_nrom_unmapped hb h h'
  · rw [route_nrom_prgRam hb h h', hp]; rfl

end Console

theorem memRead_unmapped {addr : Word} {s : State} (h : route s.config addr = .unmapped) :
    memRead addr s = .fault (.invalidBusAddress .cpu addr) := by rw [memRead, h]

theorem memWrite_unmapped {addr : Word} {s : State} (h : route s.config addr = .unmapped) (b : Byte) :
    memWrite addr b s = .fault (.invalidBusAddress .cpu addr) := by rw [memWrite, h]

theorem memWrite_prgRom {addr : Word} {s : State} {i : Nat} (h : route s.config addr = .prgRom i) (b : Byte) :
    memWrite addr b s = .fault (.readOnlyViolation .cpu addr) := by rw [memWrite, h]

/-- Settles O38: in each range the read follows what the address reaches. -/
theorem consoleReads : Obligations.ConsoleReads := by
  intro s addr hb
  refine ⟨fun h => ?ram, fun h h' => ?ppuReg, fun h h' => ?apu, fun h h' => ?unmapped, fun h h' => ?prgRam,
    fun h => ?prgRom⟩
  case ram => exact memRead_ram (route_nrom_ram hb h)
  case ppuReg => rw [memRead, route_nrom_ppuReg hb h h']
  case apu => exact ⟨drawByte s, by rw [memRead, route_nrom_apu hb h h', countDraw]⟩
  case unmapped => exact memRead_unmapped (route_nrom_unmapped hb h h')
  case prgRam =>
    rw [memRead, route_nrom_prgRam hb h h']
    cases s.config.prgRamPresent <;> rfl
  case prgRom => rw [memRead, route_nrom_prgRom hb h]

/-- Settles O39: in each range the write follows what the address reaches. -/
theorem consoleWrites : Obligations.ConsoleWrites := by
  intro s addr b hb
  refine ⟨fun h => ?ram, fun h h' => ?ppuReg, fun h h' => ?apu, fun h h' => ?unmapped, fun h h' => ?prgRam,
    fun h => ?prgRom⟩
  case ram => exact memWrite_ram (route_nrom_ram hb h) b
  case ppuReg => rw [memWrite, route_nrom_ppuReg hb h h']
  case apu => rw [memWrite, route_nrom_apu hb h h']
  case unmapped => exact memWrite_unmapped (route_nrom_unmapped hb h h') b
  case prgRam =>
    rw [memWrite, route_nrom_prgRam hb h h']
    cases s.config.prgRamPresent <;> rfl
  case prgRom => exact memWrite_prgRom (route_nrom_prgRom hb h) b

/-! ## Loads and stores that stop -/

theorem Resolves.config {i : Instr} {s s1 : State} {x1 : Nat} (h : Resolves i s x1 s1) :
    s1.config = s.config := by
  rw [resolve_effect h]; rfl

/-- A store whose write stops, stops with that fault. -/
theorem exec_store_fault {i : Instr} {s s1 : State} {x1 : Nat} {f : Fault} (hk : isStore i.entry.mnemonic = true)
    (hres : Resolves i s x1 s1) (hf : ∀ b, memWrite s1.ea b s1 = .fault f) : exec i s = .fault f := by
  rw [exec_of_resolves hres, execute_store hk, hf, andThen_fault, andThen_fault]

/-- An instruction that reads its operand from memory and whose read stops, stops with that fault. -/
theorem exec_read_fault {i : Instr} {s s1 : State} {x1 : Nat} {f : Fault} (hk : isRead i.entry.mnemonic = true)
    (hm : i.entry.mode ≠ .imm ∧ i.entry.mode ≠ .acc) (hres : Resolves i s x1 s1)
    (hf : memRead s1.ea s1 = .fault f) : exec i s = .fault f := by
  rw [exec_of_resolves hres, execute_read hk, operand_mem hm, hf, andThen_fault, andThen_fault]

/-- No instruction that reads an operand has the accumulator mode (30 R106). -/
theorem mode_ne_acc_of_isRead {i : Instr} (h : isRead i.entry.mnemonic = true) : i.entry.mode ≠ .acc := by
  have row : (!isRead i.entry.mnemonic || i.entry.mode != .acc) = true := by cases i <;> rfl
  simpa [h] using row

/-- Settles O11: a store's write and a load's read of its operand stop where `ea` is program ROM's or reaches
nothing, and a fault ends the instruction. -/
theorem consoleAccessFaults : Obligations.ConsoleAccessFaults := by
  intro i s s1 x1 hb hres
  rw [← hres.config] at hb ⊢
  refine ⟨fun hk => ?_, fun hk himm => ?_⟩
  · have hstore : isStore i.entry.mnemonic = true := by rcases hk with e | e | e <;> rw [e] <;> rfl
    exact ⟨fun h => exec_store_fault hstore hres (memWrite_prgRom (route_nrom_prgRom hb h)),
      fun h => exec_store_fault hstore hres (memWrite_unmapped (route_nrom_nothing hb (.inl h))),
      fun h => exec_store_fault hstore hres (memWrite_unmapped (route_nrom_nothing hb (.inr h)))⟩
  · have hread : isRead i.entry.mnemonic = true := by rcases hk with e | e | e <;> rw [e] <;> rfl
    have hm := And.intro himm (mode_ne_acc_of_isRead hread)
    exact ⟨fun h => exec_read_fault hread hm hres (memRead_unmapped (route_nrom_nothing hb (.inl h))),
      fun h => exec_read_fault hread hm hres (memRead_unmapped (route_nrom_nothing hb (.inr h)))⟩

/-! ## Writing and reading back -/

/-- What is plain memory reads back through every address that reaches the same cell (20 R90). -/
theorem plainByte_memWrite_same {s t : State} {addr other : Word} {b c : Byte} (hi : StateInv s)
    (hc : plainByte addr s = some c) (h : memWrite addr b s = .next t)
    (hsame : route s.config other = route s.config addr) : plainByte other t = some b := by
  unfold memWrite at h
  unfold plainByte at hc ⊢
  split at h
  case h_1 i hr =>
    cases h
    simp only [hsame, hr, Memory.read_write_same hi.ram]
  case h_2 i hr =>
    cases h
    simp only [hsame, hr, Memory.read_write_same hi.prgRam]
  case h_3 => cases h
  case h_4 i hr => rw [hr] at hc; cases hc
  case h_5 hr => rw [hr] at hc; cases hc
  case h_6 => cases h

/-- Settles O40: the cell written holds the byte, and no other cell changes. -/
theorem writeThenRead : Obligations.WriteThenRead := by
  intro s t addr other b c hi hc h
  exact ⟨plainByte_memWrite_same hi hc h, memWrite_plainByte h⟩

/-! ## The flat map -/

section Flat
variable {s : State} (hb : s.config.bus = .flat64k)
include hb

theorem route_flat (addr : Word) : route s.config addr = .ram addr.toNat := by rw [route, hb]

theorem plainByte_flat (addr : Word) : plainByte addr s = some (s.ram.read addr.toNat) := by
  rw [plainByte, route_flat hb]

theorem memRead_flat (addr : Word) : memRead addr s = .next (s.ram.read addr.toNat, s) :=
  memRead_ram (route_flat hb addr)

theorem memWrite_flat (addr : Word) (b : Byte) :
    memWrite addr b s = .next { s with ram := s.ram.write addr.toNat b } :=
  memWrite_ram (route_flat hb addr) b

theorem readable_flat (addr : Word) : Readable addr s = true := by rw [Readable, route_flat hb]

theorem writable_flat (addr : Word) : Writable addr s = true := by rw [Writable, route_flat hb]

theorem operand_flat (m : Mode) : ∃ b t, operand m s = .next (b, t) :=
  operand_of_readable (.inr (.inr (readable_flat hb _)))

theorem result_flat (m : Mode) (v : Byte) : ∃ t, result m v s = .next t := by
  unfold result
  split
  · exact ⟨_, rfl⟩
  · exact memWrite_of_writable (writable_flat hb _) v

/-- Over the flat map every resolver completes, the indirect jump's two pointer reads included. -/
theorem resolve_flat (i : Instr) : ∃ x1 s1, resolve i s = .next (x1, s1) := by
  by_cases hm : i.entry.mode = .ind
  · obtain ⟨ptr, rfl⟩ := mode_ind hm
    have hread := memRead_flat (s := { s with pc := s.pc + 2#16 }) hb
    exact ⟨_, _, by rw [resolve, resolveInd, hread, andThen_next, hread, andThen_next]⟩
  · obtain ⟨x1, ea, opv, e⟩ := resolve_next hm s
    exact ⟨_, _, e⟩

/-- Over the flat map every handler completes: all it reads and writes is RAM. -/
theorem execute_flat (k : Mnemonic) (m : Mode) : ∃ x2 t, execute k m s = .next (x2, t) := by
  rcases mnemonic_shapes k with hk | hk | hk | hk | hk | hk | rfl | rfl | rfl | rfl | rfl | rfl | rfl | rfl
  · obtain ⟨b, u, hread⟩ := operand_flat hb m
    exact ⟨_, _, by rw [execute_read hk, hread, andThen_next]⟩
  · obtain ⟨u, hwrite⟩ := memWrite_of_writable (writable_flat hb s.ea) (storedByte k s)
    exact ⟨_, _, by rw [execute_store hk, hwrite, andThen_next]⟩
  · obtain ⟨b, u, hread⟩ := operand_flat hb m
    have hu : u.config.bus = .flat64k := by rw [(operand_afterRead hread).config, hb]
    obtain ⟨t, hresult⟩ := result_flat (s := { u with p := modifiedFlags k b u.p }) hu m (modifiedByte k u.p.c b)
    exact ⟨_, _, by rw [execute_shift hk, hread, andThen_next, hresult, andThen_next]⟩
  · have hwrite := memWrite_flat (s := { s with p := modifiedFlags k (s.ram.read s.ea.toNat) s.p }) hb
    exact ⟨_, _, by rw [execute_incDec hk, memRead_flat hb, andThen_next, hwrite, andThen_next]⟩
  · exact ⟨_, _, execute_register hk m s⟩
  · obtain ⟨x2, pc, e, -⟩ := branchIf_eq (branchCond k s.p) s
    exact ⟨_, _, (execute_branch hk m s).trans e⟩
  · exact ⟨_, _, execute_pha m s⟩
  · exact ⟨_, _, execute_php m s⟩
  · exact ⟨_, _, execute_pla m s⟩
  · exact ⟨_, _, execute_plp m s⟩
  · exact ⟨_, _, execute_jsr m s⟩
  · exact ⟨_, _, execute_rts m s⟩
  · obtain ⟨lo, hi, -, -, e⟩ := execute_brk m s
    exact ⟨_, _, e⟩
  · exact ⟨_, _, execute_rti m s⟩

theorem exec_flat (i : Instr) : ∃ t, exec i s = .next t := by
  obtain ⟨x1, s1, hres⟩ := resolve_flat (s := begun i s) hb i
  have h1 : s1.config.bus = .flat64k := by rw [Resolves.config hres, hb]
  obtain ⟨x2, t, hexec⟩ := execute_flat h1 i.entry.mnemonic i.entry.mode
  exact ⟨_, by rw [exec_of_resolves hres, hexec, andThen_next]⟩

end Flat

/-- Settles O37: every address is RAM, so that nothing an instruction accesses can fault, and a cell of RAM
holds what was written to it. -/
theorem flatMemoryNeverFaults : Obligations.FlatMemoryNeverFaults := by
  intro s hi hb
  refine ⟨exec_flat hb, fun addr => ⟨_, memRead_flat hb addr⟩, fun addr b => ?_⟩
  have hwrite := memWrite_flat hb addr b
  have hread := plainByte_memWrite_same hi (plainByte_flat hb addr) hwrite rfl
  refine ⟨_, hwrite, memRead_plain hread, fun other hne => ⟨_, memRead_flat hb other, memRead_plain ?_⟩⟩
  have hroute : route s.config other ≠ route s.config addr := by
    rw [route_flat hb, route_flat hb]
    exact fun e => hne (BitVec.eq_of_toNat_eq (Place.ram.inj e))
  rw [memWrite_plainByte hwrite hroute, plainByte_flat hb]

end Sys2Proof.Machine
end

section
/-! What an instruction leaves of memory, of the PPU and of the ports (20 R77, R78): a handler stores nothing, or
one byte at `ea`, or one to three on the stack, and registers besides. -/

namespace Sys2Proof.Machine

/-! ## Nothing stored -/

/-- From `s` to `t` nothing is stored: the CPU's registers and execution context change, and what a read changes
(20 R77). -/
def AfterNoStore (s t : State) : Prop :=
  t = { s with
    a := t.a, x := t.x, y := t.y, sp := t.sp, pc := t.pc, p := t.p, opcode := t.opcode, ea := t.ea, opv := t.opv
    rem := t.rem, draws := t.draws, vblank := t.vblank, w := t.w, rdbuf := t.rdbuf, v := t.v }

theorem AfterNoStore.trans {s t u : State} (h : AfterNoStore s t) (h' : AfterNoStore t u) : AfterNoStore s u := by
  unfold AfterNoStore at *
  rw [h']; rw [h]

theorem AfterNoStore.config {s t : State} (h : AfterNoStore s t) : t.config = s.config := by
  rw [AfterNoStore] at h
  rw [h]

theorem AfterNoStore.plainByte {s t : State} (h : AfterNoStore s t) (addr : Word) :
    plainByte addr t = plainByte addr s := by
  rw [AfterNoStore] at h
  rw [h]; rfl

/-- The PPU memories and registers that no read changes (48 R324, R332). -/
theorem AfterNoStore.ppu {s t : State} (h : AfterNoStore s t) :
    t.nt = s.nt ∧ t.pal = s.pal ∧ t.oam = s.oam ∧ t.chr = s.chr ∧ t.ppuctrl = s.ppuctrl ∧ t.ppumask = s.ppumask ∧
      t.oamAddr = s.oamAddr ∧ t.scrollX = s.scrollX ∧ t.scrollY = s.scrollY := by
  rw [AfterNoStore] at h
  rw [h]
  exact ⟨rfl, rfl, rfl, rfl, rfl, rfl, rfl, rfl, rfl⟩

theorem AfterRead.noStore {s t : State} (h : AfterRead s t) : AfterNoStore s t := by
  rw [AfterRead] at h
  rw [h]; rfl

theorem Resolves.noStore {i : Instr} {s s1 : State} {x1 : Nat} (h : Resolves i s x1 s1) : AfterNoStore s s1 := by
  rw [resolve_effect h]; rfl

/-- From `s` to `t` only the CPU's registers and execution context change. -/
structure CpuOnly (s t : State) : Prop where
  noStore : AfterNoStore s t
  ppuPart : ppuPart t = ppuPart s

theorem CpuOnly.trans {s t u : State} (h : CpuOnly s t) (h' : CpuOnly t u) : CpuOnly s u :=
  ⟨h.noStore.trans h'.noStore, h'.ppuPart.trans h.ppuPart⟩

/-- The same change over another RAM. -/
theorem CpuOnly.withRam {s t : State} (h : CpuOnly s t) (r : Memory) :
    CpuOnly { s with ram := r } { t with ram := r } := by
  refine ⟨?_, h.ppuPart⟩
  have e := h.noStore
  rw [AfterNoStore] at e
  rw [e]; rfl

/-- Every resolver but IND's reads zero page only, so that the PPU is as before (40 R151, R152). -/
theorem Resolves.cpuOnly {i : Instr} {s s1 : State} {x1 : Nat} (h : Resolves i s x1 s1) (hm : i.entry.mode ≠ .ind) :
    CpuOnly s s1 := by
  obtain ⟨x, ea, opv, e⟩ := resolve_next hm (begun i s)
  cases e.symm.trans h
  exact ⟨rfl, rfl⟩

theorem finishDispatch_cpuOnly (base : Nat) (extra : Extra) (x1 x2 : Nat) (s : State) :
    CpuOnly s (finishDispatch base extra x1 x2 s) := ⟨rfl, rfl⟩

theorem readEffect_cpuOnly (k : Mnemonic) (b : Byte) (s : State) : CpuOnly s (readEffect k b s) := by
  cases k <;> exact ⟨rfl, rfl⟩

theorem registerEffect_cpuOnly (k : Mnemonic) (s : State) : CpuOnly s (registerEffect k s) := by
  cases k <;> exact ⟨rfl, rfl⟩

/-- Obtaining an operand leaves the PPU, unless it reads a PPU register at `ea`. -/
theorem operand_ppuPart {m : Mode} {s t : State} {b : Byte} (h : operand m s = .next (b, t))
    (hr : m ≠ .imm → m ≠ .acc → ∀ k, route s.config s.ea ≠ .ppuReg k) : ppuPart t = ppuPart s := by
  unfold operand at h
  split at h
  case isTrue => cases h; rfl
  case isFalse hm => exact memRead_ppuPart h (hr (fun e => hm (.inl e)) fun e => hm (.inr e))

/-! ## The three classes of handlers -/

/-- The shapes of the handlers that store at `ea`. -/
theorem storesAtEa_eq (k : Mnemonic) (m : Mode) :
    storesAtEa k m = (isStore k || isIncDec k || (isShift k && decide (m ≠ .acc))) := by
  cases k <;> rfl

theorem storesAtStack_cases {k : Mnemonic} (h : storesAtStack k = true) :
    k = .pha ∨ k = .php ∨ k = .jsr ∨ k = .brk := by
  cases k <;> simp_all [storesAtStack]

/-- A handler that stores nothing changes registers, and the PPU only by reading an operand from one of its
registers. -/
theorem execute_noStore {k : Mnemonic} {m : Mode} {s t : State} {x2 : Nat} (h : execute k m s = .next (x2, t))
    (hea : storesAtEa k m = false) (hstack : storesAtStack k = false) :
    AfterNoStore s t ∧
      ((isRead k = true → m ≠ .imm → m ≠ .acc → ∀ r, route s.config s.ea ≠ .ppuReg r) →
        ppuPart t = ppuPart s) := by
  rw [storesAtEa_eq, Bool.or_eq_false_iff, Bool.or_eq_false_iff] at hea
  obtain ⟨⟨hstore, hincDec⟩, hshift⟩ := hea
  rcases mnemonic_shapes k with hk | hk | hk | hk | hk | hk | rfl | rfl | rfl | rfl | rfl | rfl | rfl | rfl
  · rw [execute_read hk] at h
    obtain ⟨⟨b, u⟩, hread, e⟩ := andThen_eq_next.1 h
    cases e
    have effect := readEffect_cpuOnly k b u
    exact ⟨(operand_afterRead hread).noStore.trans effect.noStore,
      fun hr => effect.ppuPart.trans (operand_ppuPart hread (hr hk))⟩
  · exact nomatch hk.symm.trans hstore
  · obtain rfl : m = .acc := by simpa [hk] using hshift
    rw [execute_shift hk] at h
    cases h
    exact ⟨rfl, fun _ => rfl⟩
  · exact nomatch hk.symm.trans hincDec
  · cases (execute_register hk m s).symm.trans h
    have effect := registerEffect_cpuOnly k s
    exact ⟨effect.noStore, fun _ => effect.ppuPart⟩
  · obtain ⟨x, pc, e, -⟩ := branchIf_eq (branchCond k s.p) s
    cases ((execute_branch hk m s).trans e).symm.trans h
    exact ⟨rfl, fun _ => rfl⟩
  · nomatch hstack
  · nomatch hstack
  · cases (execute_pla m s).symm.trans h; exact ⟨rfl, fun _ => rfl⟩
  · cases (execute_plp m s).symm.trans h; exact ⟨rfl, fun _ => rfl⟩
  · nomatch hstack
  · cases (execute_rts m s).symm.trans h; exact ⟨rfl, fun _ => rfl⟩
  · nomatch hstack
  · cases (execute_rti m s).symm.trans h; exact ⟨rfl, fun _ => rfl⟩

/-- Reading at `ea` and setting flags leaves `ea`, and the PPU unless `ea` is one of its registers. -/
theorem operand_flags_effect {m : Mode} {s u : State} {b : Byte} (h : operand m s = .next (b, u)) (p : Flags) :
    AfterNoStore s { u with p := p } ∧
      ((∀ r, route s.config s.ea ≠ .ppuReg r) → ppuPart { u with p := p } = ppuPart s) ∧ u.ea = s.ea := by
  have hafter := operand_afterRead h
  have hea : u.ea = s.ea := by rw [AfterRead] at hafter; rw [hafter]
  exact ⟨hafter.noStore.trans rfl, fun hr => (operand_ppuPart h fun _ _ => hr :), hea⟩

/-- A handler that stores at `ea` writes one byte there, last, after what it read and computed. -/
theorem execute_storeAtEa {k : Mnemonic} {m : Mode} {s t : State} {x2 : Nat} (h : execute k m s = .next (x2, t))
    (hea : storesAtEa k m = true) :
    ∃ b u, AfterNoStore s u ∧ ((∀ r, route s.config s.ea ≠ .ppuReg r) → ppuPart u = ppuPart s) ∧
      memWrite s.ea b u = .next t := by
  rw [storesAtEa_eq, Bool.or_eq_true, Bool.or_eq_true, Bool.and_eq_true, decide_eq_true_eq] at hea
  rcases hea with (hk | hk) | ⟨hk, hm⟩
  · rw [execute_store hk] at h
    obtain ⟨u, hwrite, e⟩ := andThen_eq_next.1 h
    cases e
    exact ⟨_, s, rfl, fun _ => rfl, hwrite⟩
  · rw [execute_incDec hk] at h
    obtain ⟨⟨b, u⟩, hread, h⟩ := andThen_eq_next.1 h
    obtain ⟨v, hwrite, e⟩ := andThen_eq_next.1 h
    cases e
    obtain ⟨hafter, hppu, e⟩ := operand_flags_effect (m := .zp) hread (modifiedFlags k b u.p)
    exact ⟨_, _, hafter, hppu, e ▸ hwrite⟩
  · rw [execute_shift hk] at h
    obtain ⟨⟨b, u⟩, hread, h⟩ := andThen_eq_next.1 h
    obtain ⟨v, hwrite, e⟩ := andThen_eq_next.1 h
    cases e
    obtain ⟨hafter, hppu, e⟩ := operand_flags_effect hread (modifiedFlags k b u.p)
    rw [result, if_neg hm] at hwrite
    exact ⟨_, _, hafter, hppu, e ▸ hwrite⟩

/-- A handler that pushes writes RAM in the stack slots it pushes to, and registers. -/
theorem execute_storeOnStack {k : Mnemonic} {m : Mode} {s t : State} {x2 : Nat} (h : execute k m s = .next (x2, t))
    (hstack : storesAtStack k = true) :
    CpuOnly { s with ram := t.ram } t ∧
      ∀ j, (∀ n, n < pushCount k → j ≠ 0x100 + (s.sp - BitVec.ofNat 8 n).toNat) → t.ram.read j = s.ram.read j := by
  have slot0 : s.sp - BitVec.ofNat 8 0 = s.sp := BitVec.sub_zero s.sp
  rcases storesAtStack_cases hstack with rfl | rfl | rfl | rfl
  · cases (execute_pha m s).symm.trans h
    exact ⟨⟨rfl, rfl⟩, fun j hj => Memory.read_write_other _ (slot0 ▸ hj 0 (by decide))⟩
  · cases (execute_php m s).symm.trans h
    exact ⟨⟨rfl, rfl⟩, fun j hj => Memory.read_write_other _ (slot0 ▸ hj 0 (by decide))⟩
  · cases (execute_jsr m s).symm.trans h
    exact ⟨⟨rfl, rfl⟩, fun j hj => (Memory.read_write_other _ (hj 1 (by decide))).trans
      (Memory.read_write_other _ (slot0 ▸ hj 0 (by decide)))⟩
  · obtain ⟨lo, hi, -, -, e⟩ := execute_brk m s
    cases e.symm.trans h
    exact ⟨⟨rfl, rfl⟩, fun j hj => (Memory.read_write_other _ (hj 2 (by decide))).trans
      ((Memory.read_write_other _ (hj 1 (by decide))).trans
        (Memory.read_write_other _ (slot0 ▸ hj 0 (by decide))))⟩

/-! ## The three classes of instructions -/

/-- The mnemonics that store on the stack do not jump through a pointer. -/
theorem mode_ne_ind_of_storesAtStack {i : Instr} (h : storesAtStack i.entry.mnemonic = true) :
    i.entry.mode ≠ .ind :=
  mode_ne_ind fun e => nomatch (e ▸ h : storesAtStack .jmp = true)

theorem mode_ne_ind_of_storesAtEa {i : Instr} (h : storesAtEa i.entry.mnemonic i.entry.mode = true) :
    i.entry.mode ≠ .ind :=
  mode_ne_ind fun e => nomatch (e ▸ h : storesAtEa .jmp i.entry.mode = true)

/-- A mnemonic that reads an operand computes its address, in the modes that read memory. -/
theorem computesAddress_of_isRead {i : Instr} (h : isRead i.entry.mnemonic = true) (himm : i.entry.mode ≠ .imm)
    (hacc : i.entry.mode ≠ .acc) : computesAddress i.entry.mode = true := by
  obtain ⟨himp, hrel, -⟩ := operand_mode (.inl h)
  generalize i.entry.mode = m at *
  cases m <;> first | rfl | contradiction

theorem exec_noStore {i : Instr} {s t : State} (h : exec i s = .next t)
    (hea : storesAtEa i.entry.mnemonic i.entry.mode = false) (hstack : storesAtStack i.entry.mnemonic = false) :
    AfterNoStore s t := by
  obtain ⟨x1, s1, x2, s2, hres, hexec, rfl⟩ := exec_next h
  exact (hres.noStore.trans (execute_noStore hexec hea hstack).1).trans (finishDispatch_cpuOnly ..).noStore

/-- The PPU after an instruction that stores nothing and reads no PPU register. -/
theorem exec_noStore_ppuPart {i : Instr} {s t : State} (h : exec i s = .next t)
    (hea : storesAtEa i.entry.mnemonic i.entry.mode = false) (hstack : storesAtStack i.entry.mnemonic = false)
    (hind : i.entry.mode ≠ .ind)
    (hroute : computesAddress i.entry.mode = true → ∀ x1 s1 k, Resolves i s x1 s1 → route s.config s1.ea ≠ .ppuReg k) :
    ppuPart t = ppuPart s := by
  obtain ⟨x1, s1, x2, s2, hres, hexec, rfl⟩ := exec_next h
  refine ((execute_noStore hexec hea hstack).2 fun hread himm hacc r => ?_).trans (hres.cpuOnly hind).ppuPart
  rw [hres.config]
  exact hroute (computesAddress_of_isRead hread himm hacc) x1 s1 r hres

/-- An instruction that stores at `ea` stores nothing, then writes a byte there, then stores nothing. -/
theorem exec_storeAtEa {i : Instr} {s s1 t : State} {x1 : Nat} (h : exec i s = .next t)
    (hea : storesAtEa i.entry.mnemonic i.entry.mode = true) (hres : Resolves i s x1 s1) :
    ∃ b u v, AfterNoStore s u ∧ ((∀ r, route s.config s1.ea ≠ .ppuReg r) → ppuPart u = ppuPart s) ∧
      memWrite s1.ea b u = .next v ∧ CpuOnly v t := by
  obtain ⟨x, s', x2, v, hres', hexec, rfl⟩ := exec_next h
  obtain ⟨rfl, rfl⟩ := hres.unique hres'
  obtain ⟨b, u, hafter, hppu, hwrite⟩ := execute_storeAtEa hexec hea
  have hs1 := hres.cpuOnly (mode_ne_ind_of_storesAtEa hea)
  rw [hres.config] at hppu
  exact ⟨b, u, v, hs1.noStore.trans hafter, fun hr => (hppu hr).trans hs1.ppuPart, hwrite, finishDispatch_cpuOnly ..⟩

/-- An instruction that pushes writes RAM in the stack slots it pushes to, and registers. -/
theorem exec_storeOnStack {i : Instr} {s t : State} (h : exec i s = .next t)
    (hstack : storesAtStack i.entry.mnemonic = true) :
    CpuOnly { s with ram := t.ram } t ∧
      ∀ j, (∀ n, n < pushCount i.entry.mnemonic → j ≠ 0x100 + (s.sp - BitVec.ofNat 8 n).toNat) →
        t.ram.read j = s.ram.read j := by
  obtain ⟨x1, s1, x2, s2, hres, hexec, rfl⟩ := exec_next h
  have hs1 := hres.cpuOnly (mode_ne_ind_of_storesAtStack hstack)
  obtain ⟨hcpu, hram⟩ := execute_storeOnStack hexec hstack
  obtain ⟨-, -, -, hsp, -, -⟩ := hres.registers
  have hram1 : s1.ram = s.ram := by rw [resolve_effect hres]; rfl
  rw [hsp, hram1] at hram
  exact ⟨((hs1.withRam s2.ram).trans hcpu).trans (finishDispatch_cpuOnly ..), hram⟩

/-! ## The frames -/

/-- Settles O33: nothing is stored, and the PPU is reached only by an operand read at `ea`. -/
theorem formsThatStoreNothing : Obligations.FormsThatStoreNothing := by
  intro i s t h hea hstack
  have hafter := exec_noStore h hea hstack
  obtain ⟨hnt, hpal, hoam, hchr, hctrl, hmask, haddr, hx, hy⟩ := hafter.ppu
  exact ⟨hafter.plainByte, hnt, hpal, hoam, hchr, hctrl, hmask, haddr, hx, hy, exec_noStore_ppuPart h hea hstack⟩

/-- Settles O34: the one write, at `ea`, leaves what `ea` does not reach. -/
theorem formsThatStoreAtEa : Obligations.FormsThatStoreAtEa := by
  intro i s s1 t x1 h hea hres
  obtain ⟨b, u, v, hbefore, hppu, hwrite, hlast⟩ := exec_storeAtEa h hea hres
  rw [← hbefore.config] at hppu ⊢
  refine ⟨fun addr hne => ?_, fun hroute => ?_⟩
  · calc plainByte addr t = plainByte addr v := hlast.noStore.plainByte addr
      _ = plainByte addr u := memWrite_plainByte hwrite hne
      _ = plainByte addr s := hbefore.plainByte addr
  · calc ppuPart t = ppuPart v := hlast.ppuPart
      _ = ppuPart u := memWrite_ppuPart hwrite hroute
      _ = ppuPart s := hppu hroute

/-- RAM that agrees outside some cells gives the same byte behind every address that reaches none of them. -/
theorem plainByte_withRam {s : State} {ram : Memory} {addr : Word}
    (h : ∀ j, route s.config addr = .ram j → ram.read j = s.ram.read j) :
    plainByte addr { s with ram := ram } = plainByte addr s := by
  unfold plainByte
  dsimp only
  split
  case h_1 j hr => rw [h j hr]
  all_goals rfl

/-- Settles O35: RAM changes in the slots pushed to only, and an address that reaches none of them reads as
before. -/
theorem formsThatStoreOnTheStack : Obligations.FormsThatStoreOnTheStack := by
  intro i s t h hstack
  obtain ⟨hcpu, hram⟩ := exec_storeOnStack h hstack
  refine ⟨fun addr hne => (hcpu.noStore.plainByte addr).trans (plainByte_withRam fun j hj => hram j fun n hn e => ?_),
    hcpu.ppuPart⟩
  exact hne n hn (by rw [hj, route_stack, e])

/-! ## Timing and ports -/

/-- What no instruction changes: the PPU's counters and request flags, the fault latches, the ports, program ROM,
the configuration and the host's pending calls (20 R91, 47 R309, R311, 60 R430). -/
def timingAndPorts (s : State) :=
  (s.cycle, s.scanline, s.frameComplete, s.nmi, s.cpuFault, s.ppuFault, s.irq, s.sink, s.prgRom, s.config, s.host)

theorem AfterNoStore.timingAndPorts {s t : State} (h : AfterNoStore s t) : timingAndPorts t = timingAndPorts s := by
  rw [AfterNoStore] at h
  rw [h]; rfl

theorem AfterWrite.timingAndPorts {s t : State} (h : AfterWrite s t) : timingAndPorts t = timingAndPorts s := by
  rw [AfterWrite] at h
  rw [h]; rfl

theorem exec_timingAndPorts {i : Instr} {s t : State} (h : exec i s = .next t) :
    timingAndPorts t = timingAndPorts s := by
  by_cases hea : storesAtEa i.entry.mnemonic i.entry.mode = true
  · obtain ⟨x1, s1, -, -, hres, -, -⟩ := exec_next h
    obtain ⟨b, u, v, hbefore, -, hwrite, hlast⟩ := exec_storeAtEa h hea hres
    calc timingAndPorts t = timingAndPorts v := hlast.noStore.timingAndPorts
      _ = timingAndPorts u := (memWrite_afterWrite hwrite).timingAndPorts
      _ = timingAndPorts s := hbefore.timingAndPorts
  · by_cases hstack : storesAtStack i.entry.mnemonic = true
    · exact (exec_storeOnStack h hstack).1.noStore.timingAndPorts
    · exact (exec_noStore h (by simpa using hea) (by simpa using hstack)).timingAndPorts

/-- Settles O36: no class of instructions changes the timing or a port, and draws only advance. -/
theorem instructionsLeaveTimingAndPorts : Obligations.InstructionsLeaveTimingAndPorts := by
  intro i s t h
  have hports := exec_timingAndPorts h
  simp only [timingAndPorts, Prod.mk.injEq] at hports
  obtain ⟨hcycle, hscanline, hframe, hnmi, hcpu, hppu, hirq, hsink, hrom, hconfig, hhost⟩ := hports
  obtain ⟨hepoch, hdraws⟩ := exec_drawsOn h
  exact ⟨hcycle, hscanline, hframe, hnmi, hcpu, hppu, hirq, hsink, hrom, hconfig, hhost, hepoch, hdraws⟩

end Sys2Proof.Machine
end

section
/-! The decoder and the encoder (30 R100 to R110): each gives back what the other takes, every row's cycles are
those of its class and mode, and a byte without a row stops the fetch. -/

namespace Sys2Proof.Laws.Row

/-- Every instruction is built from its own operand by the row of its opcode byte. -/
theorem statement (i : Instr) : Statement i :=
  @Instr.rec Statement
    ldaImm ldaZp ldaZpx ldaAbs ldaAbx ldaAby ldaIzx ldaIzy ldxImm ldxZp ldxZpy ldxAbs ldxAby ldyImm ldyZp ldyZpx
    ldyAbs ldyAbx staZp staZpx staAbs staAbx staAby staIzx staIzy stxZp stxZpy stxAbs styZp styZpx styAbs tax
    tay txa tya tsx txs adcImm adcZp adcZpx adcAbs adcAbx adcAby adcIzx adcIzy sbcImm sbcZp sbcZpx sbcAbs sbcAbx
    sbcAby sbcIzx sbcIzy andImm andZp andZpx andAbs andAbx andAby andIzx andIzy oraImm oraZp oraZpx oraAbs
    oraAbx oraAby oraIzx oraIzy eorImm eorZp eorZpx eorAbs eorAbx eorAby eorIzx eorIzy cmpImm cmpZp cmpZpx
    cmpAbs cmpAbx cmpAby cmpIzx cmpIzy cpxImm cpxZp cpxAbs cpyImm cpyZp cpyAbs bitZp bitAbs aslAcc aslZp aslZpx
    aslAbs aslAbx lsrAcc lsrZp lsrZpx lsrAbs lsrAbx rolAcc rolZp rolZpx rolAbs rolAbx rorAcc rorZp rorZpx rorAbs
    rorAbx incZp incZpx incAbs incAbx decZp decZpx decAbs decAbx inx iny dex dey bcc bcs beq bne bmi bpl bvc bvs
    jmpAbs jmpInd jsr rts pha php pla plp clc sec cli sei cld sed clv nop brk rti i

end Sys2Proof.Laws.Row

namespace Sys2Proof

/-! ## Decoding an encoded instruction -/

/-- By the format of the opcode's row: the operand bytes give the operand back. -/
theorem decode_encode {i : Instr} (hi : i.WellFormed = true) (rest : List Byte) :
    decode (encode i ++ rest) = some (i, rest) := by
  have hrow := Laws.Row.statement i
  unfold Laws.Row.Statement at hrow
  unfold Instr.WellFormed at hi
  split at hrow
  case h_1 => exact hrow.elim
  case h_2 j ht =>
    obtain ⟨ho, rfl⟩ := hrow
    simp [decode, encode, ht, ho, Operand.bytes]
  case h_3 f ht =>
    obtain ⟨b, ho, hf⟩ := hrow
    simp [decode, encode, ht, ho, hf, Operand.bytes]
  case h_4 f ht =>
    obtain ⟨d, ho, hf⟩ := hrow
    rw [ho] at hi
    simp [decode, encode, ht, ho, hf, Operand.bytes, toInt_ofInt_of_wellFormed hi]
  case h_5 f ht =>
    obtain ⟨w, ho, hf⟩ := hrow
    simp [decode, encode, ht, ho, hf, Operand.bytes, Machine.mkWord_loByte_hiByte]

/-- Settles O1: the row of the opcode byte builds the instruction again from its operand bytes. -/
theorem decodeOfEncode : Obligations.DecodeOfEncode :=
  fun _ rest hi => decode_encode hi rest

/-! ## Encoding a decoded instruction -/

/-- The displacement of a byte fits its encoding. -/
theorem wellFormed_rel_toInt (b : Byte) : (Operand.rel b.toInt).WellFormed = true := by
  have hlo := BitVec.le_toInt b
  have hhi := BitVec.toInt_lt (x := b)
  simp only [Operand.WellFormed, Bool.and_eq_true, decide_eq_true_eq]
  omega

/-- An instruction with that opcode byte and that operand encodes as they do. -/
theorem wellFormed_and_encode {i : Instr} {op : Byte} {o : Operand} (h : i.entry.opcode = op ∧ i.operand = o)
    (ho : o.WellFormed = true) (rest : List Byte) :
    i.WellFormed = true ∧ op :: (o.bytes ++ rest) = encode i ++ rest := by
  obtain ⟨rfl, rfl⟩ := h
  exact ⟨ho, rfl⟩

/-- By the format of the opcode's row: the operand bytes are those of the operand they make. -/
theorem decode_eq_some {bs rest : List Byte} {i : Instr} (h : decode bs = some (i, rest)) :
    i.WellFormed = true ∧ bs = encode i ++ rest := by
  unfold decode at h
  split at h
  case h_1 => cases h
  case h_2 op tail =>
    split at h
    case h_1 => cases h
    case h_2 j ht =>
      cases h
      exact wellFormed_and_encode (templateOf_makes ht) rfl rest
    case h_3 f ht =>
      rcases tail with _ | ⟨b, tail⟩ <;> cases h
      exact wellFormed_and_encode (templateOf_makes ht b) rfl rest
    case h_4 f ht =>
      rcases tail with _ | ⟨b, tail⟩ <;> cases h
      have hbytes : (Operand.rel b.toInt).bytes = [b] := by rw [Operand.bytes, BitVec.ofInt_toInt]
      have hparts := wellFormed_and_encode (templateOf_makes ht b.toInt) (wellFormed_rel_toInt b) rest
      rwa [hbytes] at hparts
    case h_5 f ht =>
      rcases tail with _ | ⟨lo, _ | ⟨hi, tail⟩⟩ <;> cases h
      have hbytes : (Operand.word (mkWord lo hi)).bytes = [lo, hi] := by
        rw [Operand.bytes, Machine.loByte_mkWord, Machine.hiByte_mkWord]
      have hparts := wellFormed_and_encode (templateOf_makes ht (mkWord lo hi)) rfl rest
      rwa [hbytes] at hparts

end Sys2Proof

namespace Sys2Proof.Machine

/-! ## The cycles of a row -/

theorem base_eq (i : Instr) : i.entry.base = baseCycles i.entry.mnemonic i.entry.mode := by cases i <;> rfl

theorem ite_page_iff (c : Prop) [Decidable c] : (if c then Extra.page else .none) = .page ↔ c := by
  by_cases h : c
  · rw [if_pos h]
    exact ⟨fun _ => h, fun _ => rfl⟩
  · rw [if_neg h]
    exact ⟨nofun, fun hc => absurd hc h⟩

theorem extraOf_eq_page (k : Mnemonic) (m : Mode) : extraOf k m = .page ↔ addsPageCross k m = true := by
  cases k <;> simp only [extraOf, addsPageCross, ite_page_iff, Bool.or_eq_true, decide_eq_true_eq, or_assoc,
    reduceCtorEq, Bool.false_eq_true]

theorem extra_eq_branch (i : Instr) : i.entry.extra = .branch ↔ i.entry.mode = .rel := by
  cases i <;> simp [Instr.entry]

/-- Settles O2: the bytes by the row that decodes them, the cycles by the entry of each instruction. -/
theorem encodeOfDecode : Obligations.EncodeOfDecode := by
  intro bs rest i h
  obtain ⟨hwf, hbytes⟩ := decode_eq_some h
  exact ⟨hwf, hbytes, base_eq i, by rw [extra_eq, extraOf_eq_page], extra_eq_branch i⟩

/-! ## The bytes without a row -/

/-- A list of bytes as a set of bits: bit `b` is set when the list holds `b`. With two such numbers, which of two
lists holds each of the 256 byte values is one closed equation. -/
def byteSet : List Byte → Nat
  | [] => 0
  | b :: bs => 2 ^ b.toNat ||| byteSet bs

theorem testBit_byteSet (b : Byte) (bs : List Byte) : (byteSet bs).testBit b.toNat = decide (b ∈ bs) := by
  induction bs with
  | nil => simp [byteSet]
  | cons c cs ih => simp [byteSet, Nat.testBit_two_pow, ih, BitVec.toNat_inj, eq_comm]

/-- Of the 256 byte values, each stands either in the opcode table or among the undefined ones. -/
theorem byteSet_opcodes_xor_undefined :
    byteSet (opcodeTable.map Prod.fst) ^^^ byteSet undefinedOpcodes = 2 ^ 256 - 1 := by
  decide +kernel

theorem mem_undefinedOpcodes_iff (op : Byte) : op ∈ undefinedOpcodes ↔ op ∉ opcodeTable.map Prod.fst := by
  have hlt : op.toNat < 256 := op.isLt
  have hbit := congrArg (Nat.testBit · op.toNat) byteSet_opcodes_xor_undefined
  simp only [Nat.testBit_xor, testBit_byteSet, Nat.testBit_two_pow_sub_one, hlt, decide_true] at hbit
  by_cases hu : op ∈ undefinedOpcodes <;> by_cases ht : op ∈ opcodeTable.map Prod.fst <;> simp [hu, ht] at hbit ⊢

theorem templateOf_eq_none (op : Byte) : templateOf op = none ↔ op ∈ undefinedOpcodes := by
  rw [templateOf, List.lookup_eq_none_iff, mem_undefinedOpcodes_iff]
  simp only [List.mem_map, not_exists, not_and, bne_iff_ne, ne_eq, eq_comm (a := op)]

theorem undefinedOpcodes_nodup : undefinedOpcodes.Nodup := by decide +kernel

theorem fetch_unknown {s t : State} {op : Byte} (hread : memRead s.pc s = .next (op, t))
    (hop : op ∈ undefinedOpcodes) (hextra : op ∉ s.config.extraOpcodes) : fetch s = .fault (.unknownOpcode op) := by
  simp [fetch, hread, (templateOf_eq_none op).2 hop, unknownOpcode, hextra]

/-- Settles O4: the table and the undefined bytes part the 256 values, and the fetch finds no row. -/
theorem undefinedOpcodesFault : Obligations.UndefinedOpcodesFault := by
  refine ⟨rfl, undefinedOpcodes_nodup, templateOf_eq_none, fun s t op hrem hread hop hextra => ?_⟩
  rw [cpuClock, if_pos hrem, fetchStep, fetch_unknown hread hop hextra, andThen_fault]

/-! ## Sample words -/

/-- Settles O3: each word is evaluated by the decoder. -/
theorem sampleWordsDecode : Obligations.SampleWordsDecode := by
  unfold Obligations.SampleWordsDecode
  decide

end Sys2Proof.Machine
end

section
/-! The addressing modes (40 R132, R140 to R149, R151, R152): which bytes are fetched for an instruction of a mode,
and each resolver in closed form, in the numbers of the rules. IND (R150) belongs to the jumps. -/

namespace Sys2Proof.Machine

/-! ## The operand a fetch gives, by the mode's format -/

theorem operand_bytes_length (i : Instr) : i.operand.bytes.length + 1 = i.entry.mode.length := length_eq_mode i

/-- The operand is a displacement in REL and in no other mode: only there does it fit a resolver. -/
theorem mode_eq_rel_iff (i : Instr) : i.entry.mode = .rel ↔ ∃ d, i.operand = .rel d := by
  have hfits := resolve_by_mode i State.reset
  generalize i.entry.mode = m at hfits ⊢
  generalize i.operand = o at hfits ⊢
  cases m <;> cases o <;> simp [resolveBy] at hfits ⊢

section Fetched
variable {i : Instr} {s t : State} {m : Mode}

/-- An instruction is resolved by its mode, from its operand. -/
theorem resolves_of_resolveBy {o : Operand} (hm : i.entry.mode = m) (ho : i.operand = o) {x1 : Nat} {s1 : State}
    (h : resolveBy m o (begun i t) = some (.next (x1, s1))) : Resolves i t x1 s1 := by
  have hres := resolve_by_mode i (begun i t)
  rw [hm, ho, h] at hres
  exact (Option.some.inj hres).symm

/-- In the modes of one byte the opcode alone is fetched. -/
theorem fetch_opcode (h : fetch s = .next (i, t)) (hm : i.entry.mode = m) (hlen : m.length = 1) :
    FetchedOpcode i s t ∧
      ∀ {x1 s1}, resolveBy m .none (begun i t) = some (.next (x1, s1)) → Resolves i t x1 s1 := by
  have hbytes := operand_bytes_length i
  have hreads := fetch_reads h
  rw [hm, hlen] at hbytes
  cases ho : i.operand <;> rw [ho] at hbytes hreads
  case none => exact ⟨hreads, resolves_of_resolveBy hm ho⟩
  all_goals nomatch hbytes

/-- In the modes of two bytes, REL excepted, the operand is the byte fetched after the opcode. -/
theorem fetch_byte (h : fetch s = .next (i, t)) (hm : i.entry.mode = m) (hlen : m.length = 2) (hrel : m ≠ .rel) :
    ∃ b, FetchedByte i b s t ∧
      ∀ {x1 s1}, resolveBy m (.byte b) (begun i t) = some (.next (x1, s1)) → Resolves i t x1 s1 := by
  have hbytes := operand_bytes_length i
  have hreads := fetch_reads h
  rw [hm, hlen] at hbytes
  cases ho : i.operand <;> rw [ho] at hbytes hreads
  case byte b => exact ⟨b, hreads, resolves_of_resolveBy hm ho⟩
  case rel d => exact absurd (hm ▸ (mode_eq_rel_iff i).2 ⟨d, ho⟩) hrel
  all_goals nomatch hbytes

/-- In REL the operand is the byte fetched after the opcode, read as a signed number. -/
theorem fetch_rel (h : fetch s = .next (i, t)) (hm : i.entry.mode = .rel) :
    ∃ b, FetchedByte i b s t ∧
      ∀ {x1 s1}, resolveBy .rel (.rel b.toInt) (begun i t) = some (.next (x1, s1)) → Resolves i t x1 s1 := by
  obtain ⟨d, ho⟩ := (mode_eq_rel_iff i).1 hm
  have hreads := fetch_reads h
  rw [ho] at hreads
  obtain ⟨b, hb, rfl⟩ := hreads
  exact ⟨b, hb, resolves_of_resolveBy hm ho⟩

/-- In the modes of three bytes the operand is the word fetched after the opcode. -/
theorem fetch_word (h : fetch s = .next (i, t)) (hm : i.entry.mode = m) (hlen : m.length = 3) :
    ∃ w, FetchedWord i w s t ∧
      ∀ {x1 s1}, resolveBy m (.word w) (begun i t) = some (.next (x1, s1)) → Resolves i t x1 s1 := by
  have hbytes := operand_bytes_length i
  have hreads := fetch_reads h
  rw [hm, hlen] at hbytes
  cases ho : i.operand <;> rw [ho] at hbytes hreads
  case word w => exact ⟨w, hreads, resolves_of_resolveBy hm ho⟩
  all_goals nomatch hbytes

end Fetched

/-! ## Bytes and words as numbers -/

/-- The sum of two bytes is taken modulo 256 before it is an address. -/
theorem setWidth_add_eq_ofNat (a b : Byte) :
    (a + b).setWidth 16 = BitVec.ofNat 16 ((a.toNat + b.toNat) % 256) := by
  rw [← BitVec.ofNat_toNat, BitVec.toNat_add]

theorem word_add_setWidth (w : Word) (b : Byte) : w + b.setWidth 16 = BitVec.ofNat 16 (w.toNat + b.toNat) := by
  rw [BitVec.ofNat_add, BitVec.ofNat_toNat, BitVec.ofNat_toNat, BitVec.setWidth_eq]

/-- An index leaves the page of the word exactly when the sum does, also where the sum wraps. -/
theorem pageCross_index (w : Word) (b : Byte) :
    pageCross w (w + b.setWidth 16) = if (w.toNat + b.toNat) / 256 = w.toNat / 256 then 0 else 1 := by
  have hw := w.isLt
  have hb := b.isLt
  rw [pageCross_eq, word_add_setWidth, BitVec.toNat_ofNat]
  congr 1
  rw [eq_iff_iff]
  omega

theorem resolveIndexed_eq (w : Word) (b : Byte) (s : State) : resolveIndexed w b s =
    .next (if (w.toNat + b.toNat) / 256 = w.toNat / 256 then 0 else 1,
      { s with ea := BitVec.ofNat 16 (w.toNat + b.toNat) }) := by
  rw [resolveIndexed, pageCross_index, word_add_setWidth]

/-- The page of a word is its high byte, so an index leaves it when the sum with the low byte carries. -/
theorem resolveIndexed_mkWord (lo hi b : Byte) (s : State) : resolveIndexed (mkWord lo hi) b s =
    .next (if (lo.toNat + b.toNat) / 256 = 0 then 0 else 1,
      { s with ea := BitVec.ofNat 16 (lo.toNat + 256 * hi.toNat + b.toNat) }) := by
  have hlo := lo.isLt
  have hpage : (lo.toNat + 256 * hi.toNat + b.toNat) / 256 = (lo.toNat + 256 * hi.toNat) / 256 ↔
      (lo.toNat + b.toNat) / 256 = 0 := by omega
  rw [resolveIndexed_eq, mkWord_toNat]
  simp only [hpage]

/-! ## The resolvers after the opcode's fetch -/

section Begun
variable (i : Instr) (s : State)

theorem begun_pc_add_one : (begun i s).pc + 1#16 = s.pc + 2#16 := BitVec.add_assoc ..

theorem begun_pc_add_two : (begun i s).pc + 2#16 = s.pc + 3#16 := BitVec.add_assoc ..

theorem resolveAcc_begun : resolveAcc (begun i s) = .next (0, { s with
    opcode := i.entry.opcode, pc := s.pc + 1#16, opv := BitVec.ofNat 16 s.a.toNat }) := by
  rw [BitVec.ofNat_toNat]; rfl

theorem resolveImm_begun (b : Byte) : resolveImm b (begun i s) = .next (0, { s with
    opcode := i.entry.opcode, pc := s.pc + 2#16, opv := BitVec.ofNat 16 b.toNat }) := by
  rw [resolveImm, begun_pc_add_one, BitVec.ofNat_toNat]; rfl

theorem resolveRel_begun (b : Byte) : resolveRel b.toInt (begun i s) = .next (0, { s with
    opcode := i.entry.opcode, pc := s.pc + 2#16, opv := BitVec.signExtend 16 b }) := by
  rw [resolveRel, begun_pc_add_one]; rfl

theorem resolveZp_begun (b : Byte) : resolveZp b (begun i s) = .next (0, { s with
    opcode := i.entry.opcode, pc := s.pc + 2#16, ea := BitVec.ofNat 16 b.toNat }) := by
  rw [resolveZp, begun_pc_add_one, BitVec.ofNat_toNat]; rfl

theorem resolveZpx_begun (b : Byte) : resolveZpx b (begun i s) = .next (0, { s with
    opcode := i.entry.opcode, pc := s.pc + 2#16, ea := BitVec.ofNat 16 ((b.toNat + s.x.toNat) % 256) }) := by
  rw [resolveZpx, begun_pc_add_one, setWidth_add_eq_ofNat]; rfl

theorem resolveZpy_begun (b : Byte) : resolveZpy b (begun i s) = .next (0, { s with
    opcode := i.entry.opcode, pc := s.pc + 2#16, ea := BitVec.ofNat 16 ((b.toNat + s.y.toNat) % 256) }) := by
  rw [resolveZpy, begun_pc_add_one, setWidth_add_eq_ofNat]; rfl

theorem resolveAbs_begun (w : Word) : resolveAbs w (begun i s) = .next (0, { s with
    opcode := i.entry.opcode, pc := s.pc + 3#16, ea := w }) := by
  rw [resolveAbs, begun_pc_add_two]; rfl

theorem resolveAbx_begun (w : Word) : resolveAbx w (begun i s) =
    .next (if (w.toNat + s.x.toNat) / 256 = w.toNat / 256 then 0 else 1, { s with
      opcode := i.entry.opcode, pc := s.pc + 3#16, ea := BitVec.ofNat 16 (w.toNat + s.x.toNat) }) := by
  rw [resolveAbx, begun_pc_add_two, resolveIndexed_eq]; rfl

theorem resolveAby_begun (w : Word) : resolveAby w (begun i s) =
    .next (if (w.toNat + s.y.toNat) / 256 = w.toNat / 256 then 0 else 1, { s with
      opcode := i.entry.opcode, pc := s.pc + 3#16, ea := BitVec.ofNat 16 (w.toNat + s.y.toNat) }) := by
  rw [resolveAby, begun_pc_add_two, resolveIndexed_eq]; rfl

/-- The pointer's two bytes are RAM cells of the zero page. -/
theorem resolveIzx_begun (b : Byte) : resolveIzx b (begun i s) = .next (0, { s with
    opcode := i.entry.opcode, pc := s.pc + 2#16
    ea := BitVec.ofNat 16 ((s.ram.read (b + s.x).toNat).toNat + 256 * (s.ram.read (b + s.x + 1#8).toNat).toNat) }) := by
  rw [resolveIzx_eq, begun_pc_add_one, mkWord_eq]; rfl

theorem resolveIzy_begun (b : Byte) : resolveIzy b (begun i s) =
    .next (if ((s.ram.read b.toNat).toNat + s.y.toNat) / 256 = 0 then 0 else 1, { s with
      opcode := i.entry.opcode, pc := s.pc + 2#16
      ea := BitVec.ofNat 16
        ((s.ram.read b.toNat).toNat + 256 * (s.ram.read (b + 1#8).toNat).toNat + s.y.toNat) }) := by
  rw [resolveIzy_eq, begun_pc_add_one, resolveIndexed_mkWord]; rfl

end Begun

/-! ## Reads of the zero page -/

theorem memRead_zeroPage (b : Byte) (s : State) :
    memRead (BitVec.ofNat 16 b.toNat) s = .next (s.ram.read b.toNat, s) := by
  rw [BitVec.ofNat_toNat]
  exact memRead_ram (route_zeroPage ..)

/-! ## The modes -/

/-- Settles O5: these resolvers read nothing more, and write `opv` and `PC`. -/
theorem registerAndImmediateModes : Obligations.RegisterAndImmediateModes := by
  intro i s t h
  refine ⟨fun hm => ?imp, fun hm => ?acc, fun hm => ?imm, fun hm => ?rel⟩
  case imp =>
    obtain ⟨hf, hres⟩ := fetch_opcode h hm rfl
    exact ⟨hf, hres rfl⟩
  case acc =>
    obtain ⟨hf, hres⟩ := fetch_opcode h hm rfl
    exact ⟨hf, hres (congrArg some (resolveAcc_begun i t))⟩
  case imm =>
    obtain ⟨b, hf, hres⟩ := fetch_byte h hm rfl nofun
    exact ⟨b, hf, hres (congrArg some (resolveImm_begun i t b))⟩
  case rel =>
    obtain ⟨b, hf, hres⟩ := fetch_rel h hm
    exact ⟨b, hf, hres (congrArg some (resolveRel_begun i t b))⟩

/-- Settles O6: the sum with the index is a byte, so the address stays in the zero page. -/
theorem zeroPageModes : Obligations.ZeroPageModes := by
  intro i s t h
  refine ⟨fun hm => ?zp, fun hm => ?zpx, fun hm => ?zpy⟩ <;> obtain ⟨b, hf, hres⟩ := fetch_byte h hm rfl nofun
  case zp => exact ⟨b, hf, hres (congrArg some (resolveZp_begun i t b))⟩
  case zpx => exact ⟨b, hf, hres (congrArg some (resolveZpx_begun i t b))⟩
  case zpy => exact ⟨b, hf, hres (congrArg some (resolveZpy_begun i t b))⟩

/-- Settles O7: the sum with the index is a word, and leaves the page of the fetched word when its high byte
differs. -/
theorem absoluteModes : Obligations.AbsoluteModes := by
  intro i s t h
  refine ⟨fun hm => ?abs, fun hm => ?abx, fun hm => ?aby⟩ <;> obtain ⟨w, hf, hres⟩ := fetch_word h hm rfl
  case abs => exact ⟨w, hf, hres (congrArg some (resolveAbs_begun i t w))⟩
  case abx => exact ⟨w, hf, hres (congrArg some (resolveAbx_begun i t w))⟩
  case aby => exact ⟨w, hf, hres (congrArg some (resolveAby_begun i t w))⟩

/-- Settles O8: the zero page is RAM in both bus maps, so the pointer's bytes are read in every state. -/
theorem pointerModes : Obligations.PointerModes := by
  intro i s t h
  refine ⟨fun hm => ?izx, fun hm => ?izy⟩ <;> obtain ⟨b, hf, hres⟩ := fetch_byte h hm rfl nofun
  case izx =>
    have hptr : (b + t.x).toNat = (b.toNat + t.x.toNat) % 256 := BitVec.toNat_add ..
    have hnext : (b + t.x + 1#8).toNat = (b.toNat + t.x.toNat + 1) % 256 := by
      rw [BitVec.toNat_add, hptr]
      exact Nat.mod_add_mod ..
    exact ⟨b, _, _, hf, hptr ▸ memRead_zeroPage (b + t.x) t, hnext ▸ memRead_zeroPage (b + t.x + 1#8) t,
      hres (congrArg some (resolveIzx_begun i t b))⟩
  case izy =>
    have hnext : (b + 1#8).toNat = (b.toNat + 1) % 256 := BitVec.toNat_add ..
    exact ⟨b, _, _, hf, memRead_zeroPage b t, hnext ▸ memRead_zeroPage (b + 1#8) t,
      hres (congrArg some (resolveIzy_begun i t b))⟩

end Sys2Proof.Machine
end

section
/-! Loads, stores and the register instructions (41 R170 to R181, 43 R216 to R219): from the shape of a handler to
what its instruction completes with, in every mode that the shape has. -/

namespace Sys2Proof.Machine

section
variable {i : Instr} {s : State}

/-! ## The shapes of handlers, from the start of an instruction -/

/-- An instruction that reads an operand completes when its operand can be read. -/
theorem exec_read_of_readable (hk : isRead i.entry.mnemonic = true) (h : OperandReadable i s) :
    ∃ x1 m t, OperandGives i s x1 m t ∧
      exec i s = .next { readEffect i.entry.mnemonic m t with rem := cyclesLeft i x1 0 } := by
  have hjmp : i.entry.mnemonic ≠ .jmp := fun e => nomatch e ▸ hk
  obtain ⟨x1, m, t, hgives⟩ := operandGives_of_readable (mode_ne_ind hjmp) h
  exact ⟨x1, m, t, hgives, exec_of_operand hgives fun _ => execute_read hk ..⟩

/-- No row of a store adds a cycle for a page cross (40 R135). -/
theorem cyclesLeft_of_isStore (hk : isStore i.entry.mnemonic = true) (x1 : Nat) :
    cyclesLeft i x1 0 = i.entry.base - 1 := by
  have hextra : i.entry.extra = .none := by
    rw [extra_eq]
    cases e : i.entry.mnemonic <;> rw [e] at hk <;> first | rfl | nomatch hk
  rw [cyclesLeft, hextra]
  rfl

/-- A resolver leaves the register a store stores. -/
theorem Resolves.storedByte {x1 : Nat} {s1 : State} (h : Resolves i s x1 s1) (k : Mnemonic) :
    storedByte k s1 = storedByte k s := by
  rw [resolve_effect h]
  cases k <;> rfl

/-- A write to memory leaves the flags. -/
theorem AfterWrite.flags {t : State} (h : AfterWrite s t) : t.p = s.p := by
  rw [AfterWrite] at h
  rw [h]

/-- A store completes when its address can be written, with one write of its register there. -/
theorem exec_store_of_writable (hk : isStore i.entry.mnemonic = true) (h : OperandWritable i s) :
    ∃ x1 s1 t, Resolves i s x1 s1 ∧ memWrite s1.ea (storedByte i.entry.mnemonic s) s1 = .next t ∧ t.p = s.p ∧
      exec i s = .next { t with rem := i.entry.base - 1 } := by
  have hjmp : i.entry.mnemonic ≠ .jmp := fun e => nomatch e ▸ hk
  obtain ⟨x1, ea, opv, hres⟩ := resolve_next (mode_ne_ind hjmp) (begun i s)
  obtain ⟨t, hwrite⟩ := memWrite_of_writable (h x1 _ hres) (storedByte i.entry.mnemonic s)
  refine ⟨x1, _, t, hres, hwrite, ?flags, ?completes⟩
  case flags => exact (memWrite_afterWrite hwrite).flags
  case completes =>
    rw [exec_of_resolves hres, execute_store hk, Resolves.storedByte hres, hwrite, ← cyclesLeft_of_isStore hk x1]
    rfl

/-- IMP resolves to the state it starts in (40 R140). -/
theorem resolves_imp (hm : i.entry.mode = .imp) (s : State) : Resolves i s 0 (begun i s) := by
  have hfits := resolve_by_mode i (begun i s)
  rw [hm] at hfits
  cases ho : i.operand <;> rw [ho] at hfits
  case none => exact resolves_of_resolveBy hm ho rfl
  all_goals nomatch hfits

/-- An IMP instruction that touches registers only completes in every state. -/
theorem exec_register (hk : isRegister i.entry.mnemonic = true) (hm : i.entry.mode = .imp) (s : State) :
    exec i s = .next { registerEffect i.entry.mnemonic (begun i s) with rem := cyclesLeft i 0 0 } := by
  rw [exec_of_resolves (resolves_imp hm s), execute_register hk]
  rfl

end

/-! ## The obligations -/

/-- Settles O9: a load reads its operand, and the read leaves the flags it then writes. -/
theorem loadsWriteRegisterAndZN : Obligations.LoadsWriteRegisterAndZN := by
  intro i s h
  refine ⟨fun hk => ?_, fun hk => ?_, fun hk => ?_⟩
  all_goals
    obtain ⟨x1, m, t, hgives, hexec⟩ := exec_read_of_readable (hk ▸ rfl) h
    obtain ⟨hp, -, -, -⟩ := hgives.registers
    rw [hk] at hexec
    exact ⟨x1, m, t, hgives, hp ▸ hexec⟩

/-- Settles O10: a store is one write of its register, of which the resolver left the value. -/
theorem storesWriteRegisterAtEa : Obligations.StoresWriteRegisterAtEa := by
  intro i s h
  refine ⟨fun hk => ?_, fun hk => ?_, fun hk => ?_⟩
  all_goals
    have hstore := exec_store_of_writable (hk ▸ rfl) h
    rw [hk] at hstore
    exact hstore

/-- Settles O19: all ten are IMP and touch registers only. -/
theorem registerInstructions : Obligations.RegisterInstructions := fun s =>
  ⟨exec_register (i := .tax) rfl rfl s, exec_register (i := .tay) rfl rfl s, exec_register (i := .txa) rfl rfl s,
    exec_register (i := .tya) rfl rfl s, exec_register (i := .tsx) rfl rfl s, exec_register (i := .txs) rfl rfl s,
    exec_register (i := .inx) rfl rfl s, exec_register (i := .iny) rfl rfl s, exec_register (i := .dex) rfl rfl s,
    exec_register (i := .dey) rfl rfl s⟩

end Sys2Proof.Machine
end

section
/-! Arithmetic and logic (42 R190 to R199): one read of the operand gives each instruction's result and flags from the
registers the instruction started with, and the flags of a sum say what they mean for numbers. -/

namespace Sys2Proof.Machine

section
variable {i : Instr} {s t : State} {x1 : Nat} {m : Byte}

/-- An instruction that reads an operand completes once it has it. -/
theorem OperandGives.exec_read (hk : isRead i.entry.mnemonic = true) (h : OperandGives i s x1 m t) :
    exec i s = .next { readEffect i.entry.mnemonic m t with rem := cyclesLeft i x1 0 } :=
  exec_of_operand h fun _ => execute_read hk ..

/-- What ADC and SBC add to `A` besides the carry: the operand, or its one's complement (42 R190, R191). -/
def addend (k : Mnemonic) (m : Byte) : Byte := if k = .sbc then m ^^^ 0xFF#8 else m

theorem isRead_of_adc_or_sbc {k : Mnemonic} (hk : k = .adc ∨ k = .sbc) : isRead k = true := by
  rcases hk with rfl | rfl <;> rfl

theorem readEffect_adc_or_sbc {k : Mnemonic} (hk : k = .adc ∨ k = .sbc) (m : Byte) (t : State) :
    readEffect k m t = addToA (addend k m) t := by
  rcases hk with rfl | rfl <;> rfl

/-- ADC and SBC complete with the sum of `A`, their addend and the carry, all from before the read. -/
theorem OperandGives.exec_adc_or_sbc (hk : i.entry.mnemonic = .adc ∨ i.entry.mnemonic = .sbc)
    (h : OperandGives i s x1 m t) :
    exec i s = .next { t with
      a := adcResult s.a (addend i.entry.mnemonic m) s.p.c
      p := s.p.adc s.a (addend i.entry.mnemonic m)
      rem := cyclesLeft i x1 0 } := by
  obtain ⟨hp, ha, -, -⟩ := h.registers
  rw [h.exec_read (isRead_of_adc_or_sbc hk), readEffect_adc_or_sbc hk, addToA, ha, hp]

end

/-! ## The results and carries as sums and differences -/

section
variable (a m : Byte) (c : Bool)

theorem adcCarry_iff : adcCarry a m c = true ↔ 256 ≤ a.toNat + m.toNat + c.toNat := decide_eq_true_iff

theorem adcResult_eq_add : adcResult a m c = a + m + BitVec.ofNat 8 c.toNat := by
  apply BitVec.eq_of_toNat_eq
  rw [adcResult_toNat, BitVec.toNat_add, BitVec.toNat_add, BitVec.toNat_ofNat]
  omega

/-- The borrow, as a number, is what the carry lacks to one. -/
theorem toNat_add_toNat_not : c.toNat + (!c).toNat = 1 := by cases c <;> rfl

/-- Added to the complement, the carry is clear exactly when the difference borrows (42 R199). -/
theorem adcCarry_complement_iff :
    adcCarry a (m ^^^ 0xFF#8) c = true ↔ m.toNat + (!c).toNat ≤ a.toNat := by
  obtain ⟨hcomplement, -⟩ := complement_eq m
  have hborrow := toNat_add_toNat_not c
  have hm := m.isLt
  rw [adcCarry_iff, hcomplement]
  omega

/-- Added to the complement, the overflow reports that the signed difference is out of range (42 R199). -/
theorem adcOverflow_complement_iff :
    adcOverflow a (m ^^^ 0xFF#8) c = true ↔
      a.toInt - m.toInt - (!c).toNat < -128 ∨ 127 < a.toInt - m.toInt - (!c).toNat := by
  obtain ⟨-, hcomplement⟩ := complement_eq m
  have hborrow := toNat_add_toNat_not c
  rw [adcOverflow_iff, hcomplement]
  omega

/-- Added to the complement, the result is the difference with the borrow (42 R199). -/
theorem adcResult_complement : adcResult a (m ^^^ 0xFF#8) c = a - m - BitVec.ofNat 8 (!c).toNat := by
  obtain ⟨hcomplement, -⟩ := complement_eq m
  have hborrow := toNat_add_toNat_not c
  apply BitVec.eq_of_toNat_eq
  rw [adcResult_toNat, hcomplement, BitVec.toNat_sub, BitVec.toNat_sub, BitVec.toNat_ofNat]
  omega

end

/-! ## The obligations -/

/-- Settles O12: the flags and the result are those of the sum, with the registers as the read left them. -/
theorem addAndSubtractWithCarry : Obligations.AddAndSubtractWithCarry := by
  intro i s hk h
  obtain ⟨x1, q, t, hgives, -⟩ := exec_read_of_readable (isRead_of_adc_or_sbc hk) h
  exact ⟨x1, q, t, hgives, addend i.entry.mnemonic q, adcResult s.a (addend i.entry.mnemonic q) s.p.c, rfl,
    adcResult_toNat .., hgives.exec_adc_or_sbc hk⟩

/-- Settles O13: the meanings are those of the sum's flags, for SBC those of the sum with the complement. -/
theorem carryAndOverflowMeanings : Obligations.CarryAndOverflowMeanings := by
  intro i s t u x1 m hgives hexec
  refine ⟨fun hk => ?adc, fun hk => ?sbc⟩
  case adc =>
    cases (hgives.exec_adc_or_sbc (.inl hk)).symm.trans hexec
    rw [hk]
    exact ⟨adcOverflow_iff .., adcCarry_iff .., adcResult_eq_add ..⟩
  case sbc =>
    cases (hgives.exec_adc_or_sbc (.inr hk)).symm.trans hexec
    rw [hk]
    exact ⟨adcOverflow_complement_iff .., adcCarry_complement_iff .., adcResult_complement ..⟩

/-- Settles O14: each writes its result to `A`, of which the read left the value, and sets the flags from it. -/
theorem logicWritesAAndZN : Obligations.LogicWritesAAndZN := by
  intro i s h
  refine ⟨fun hk => ?_, fun hk => ?_, fun hk => ?_⟩
  all_goals
    obtain ⟨x1, m, t, hgives, hexec⟩ := exec_read_of_readable (hk ▸ rfl) h
    obtain ⟨hp, ha, -, -⟩ := hgives.registers
    rw [hk] at hexec
    rw [← hp, ← ha]
    exact ⟨x1, m, t, hgives, hexec⟩

/-- Settles O15: each writes flags only, from the register it compares or tests, which the read left. -/
theorem comparesAndBitTest : Obligations.ComparesAndBitTest := by
  intro i s h
  refine ⟨fun hk => ?_, fun hk => ?_, fun hk => ?_, fun hk => ?_⟩
  all_goals
    obtain ⟨x1, m, t, hgives, hexec⟩ := exec_read_of_readable (hk ▸ rfl) h
    obtain ⟨hp, ha, hx, hy⟩ := hgives.registers
    rw [hk] at hexec
    simp only [← hp, ← ha, ← hx, ← hy]
    exact ⟨x1, m, t, hgives, hexec⟩

end Sys2Proof.Machine
end

section
/-! Shifts, rotates, INC and DEC (43 R210 to R215, R220): one read of the operand, the flags and the result of it
and of the flags the instruction started with, and one write of the result in the operand's place. -/

namespace Sys2Proof.Machine

/-! ## The flags of a shift to the right -/

/-- LSR shifts a zero into bit 7 (43 R211). -/
theorem modifiedFlags_lsr (m : Byte) (p : Flags) : modifiedFlags .lsr m p =
    { p with c := m.getLsbD 0, z := lsrByte m == 0x00#8, n := false } := by
  simp only [modifiedFlags, modifiedByte, Flags.shift, Flags.setZN, lsrByte_bit7]

/-- ROR rotates the carry into bit 7 (43 R213). -/
theorem modifiedFlags_ror (m : Byte) (p : Flags) : modifiedFlags .ror m p =
    { p with c := m.getLsbD 0, z := rorByte p.c m == 0x00#8, n := p.c } := by
  simp only [modifiedFlags, modifiedByte, Flags.shift, Flags.setZN, rorByte_bit7]

section
variable {i : Instr} {s : State}

/-! ## The shape of the handlers, from the start of an instruction -/

/-- No row of these instructions adds a cycle for a page cross (40 R135). -/
theorem cyclesLeft_of_modifies (hk : isShift i.entry.mnemonic = true ∨ isIncDec i.entry.mnemonic = true) (x1 : Nat) :
    cyclesLeft i x1 0 = i.entry.base - 1 := by
  have hextra : i.entry.extra = .none := by
    rw [extra_eq]
    revert hk
    cases i.entry.mnemonic <;> simp [isShift, isIncDec, extraOf]
  rw [cyclesLeft, hextra]
  rfl

/-- At an address, these handlers read their operand, set the flags and write the result back (43 R220). -/
theorem execute_modify (hk : isShift i.entry.mnemonic = true ∨ isIncDec i.entry.mnemonic = true)
    (hacc : i.entry.mode ≠ .acc) (s1 : State) :
    execute i.entry.mnemonic i.entry.mode s1 = andThen (operand i.entry.mode s1) fun r =>
      andThen (memWrite r.2.ea (modifiedByte i.entry.mnemonic r.2.p.c r.1)
        { r.2 with p := modifiedFlags i.entry.mnemonic r.1 r.2.p }) fun t => .next (0, t) := by
  rcases hk with hk | hk
  · simp only [execute_shift hk, result, if_neg hacc]
  · rw [execute_incDec hk, operand_mem (incDec_mode hk)]

/-- A shift, INC or DEC of memory completes when its byte can be read and then written, with one write. -/
theorem exec_modify_of_writable (hk : isShift i.entry.mnemonic = true ∨ isIncDec i.entry.mnemonic = true)
    (hacc : i.entry.mode ≠ .acc) (hread : OperandReadable i s) (hwrite : ModifyWritable i s) :
    ∃ x1 m t u, OperandGives i s x1 m t ∧
      memWrite t.ea (modifiedByte i.entry.mnemonic s.p.c m) { t with p := modifiedFlags i.entry.mnemonic m s.p } =
        .next u ∧
      exec i s = .next { u with rem := i.entry.base - 1 } := by
  obtain ⟨-, -, hind⟩ := operand_mode (.inr hk)
  obtain ⟨x1, m, t, hgives⟩ := operandGives_of_readable hind hread
  obtain ⟨u, hstored⟩ := memWrite_of_writable (s := { t with p := modifiedFlags i.entry.mnemonic m s.p })
    (hwrite x1 m t hgives) (modifiedByte i.entry.mnemonic s.p.c m)
  refine ⟨x1, m, t, u, hgives, hstored, ?completes⟩
  obtain ⟨hp, -, -, -⟩ := hgives.registers
  rw [exec_of_operand hgives (execute_modify hk hacc), hp, hstored, ← cyclesLeft_of_modifies hk x1]
  rfl

/-- ACC gives the accumulator, in every state (40 R139, R141). -/
theorem operandGives_acc (hm : i.entry.mode = .acc) (s : State) : OperandGives i s 0 s.a { s with
    opcode := i.entry.opcode, pc := s.pc + 1#16, opv := BitVec.ofNat 16 s.a.toNat } := by
  have hfits := resolve_by_mode i (begun i s)
  rw [hm] at hfits
  cases ho : i.operand <;> rw [ho] at hfits
  case none =>
    refine ⟨_, resolves_of_resolveBy hm ho (congrArg some (resolveAcc_begun i s)), ?_⟩
    simp [hm, operand]
  all_goals nomatch hfits

/-- A shift of the accumulator completes in every state. -/
theorem exec_shift_acc (hk : isShift i.entry.mnemonic = true) (hm : i.entry.mode = .acc) (s : State) :
    exec i s = .next { s with
      opcode := i.entry.opcode, opv := BitVec.ofNat 16 s.a.toNat, pc := s.pc + 1#16
      a := modifiedByte i.entry.mnemonic s.p.c s.a, p := modifiedFlags i.entry.mnemonic s.a s.p
      rem := i.entry.base - 1 } := by
  rw [exec_of_operand (operandGives_acc hm s) (execute_shift hk i.entry.mode), result, if_pos hm,
    ← cyclesLeft_of_modifies (.inl hk) 0]
  rfl

end

/-! ## The obligations -/

/-- Settles O16: the operand is `A`, which every state gives, and the result goes back to it. -/
theorem accumulatorShifts : Obligations.AccumulatorShifts := by
  intro s
  refine ⟨⟨aslByte s.a, aslByte_toNat .., ?asl⟩, ⟨lsrByte s.a, lsrByte_toNat .., ?lsr⟩,
    ⟨rolByte s.p.c s.a, rolByte_toNat .., ?rol⟩, ⟨rorByte s.p.c s.a, rorByte_toNat .., ?ror⟩⟩
  case asl => exact exec_shift_acc (i := .aslAcc) rfl rfl s
  case lsr => exact modifiedFlags_lsr s.a s.p ▸ exec_shift_acc (i := .lsrAcc) rfl rfl s
  case rol => exact exec_shift_acc (i := .rolAcc) rfl rfl s
  case ror => exact modifiedFlags_ror s.a s.p ▸ exec_shift_acc (i := .rorAcc) rfl rfl s

/-- Settles O17: one read and one write at `ea`, with the flags the shift of the byte read sets. -/
theorem memoryShifts : Obligations.MemoryShifts := by
  intro i s hacc hread hwrite
  have hmodifies (hk : isShift i.entry.mnemonic = true) := exec_modify_of_writable (.inl hk) hacc hread hwrite
  refine ⟨fun hk => ?asl, fun hk => ?lsr, fun hk => ?rol, fun hk => ?ror⟩
  all_goals
    obtain ⟨x1, m, t, u, hgives, hstored, hexec⟩ := hmodifies (hk ▸ rfl)
    rw [hk] at hstored
  case asl => exact ⟨x1, m, t, u, hgives, aslByte m, aslByte_toNat m, hstored, hexec⟩
  case lsr => exact ⟨x1, m, t, u, hgives, lsrByte m, lsrByte_toNat m, modifiedFlags_lsr m s.p ▸ hstored, hexec⟩
  case rol => exact ⟨x1, m, t, u, hgives, rolByte s.p.c m, rolByte_toNat .., hstored, hexec⟩
  case ror => exact ⟨x1, m, t, u, hgives, rorByte s.p.c m, rorByte_toNat .., modifiedFlags_ror m s.p ▸ hstored, hexec⟩

/-- Settles O18: INC and DEC have memory modes only, so each is one read and one write at `ea`. -/
theorem memoryIncrementAndDecrement : Obligations.MemoryIncrementAndDecrement := by
  intro i s hread hwrite
  have hmodifies (hk : isIncDec i.entry.mnemonic = true) :=
    exec_modify_of_writable (.inr hk) (incDec_mode hk).2 hread hwrite
  refine ⟨fun hk => ?_, fun hk => ?_⟩
  all_goals
    have hresult := hmodifies (hk ▸ rfl)
    rw [hk] at hresult
    exact hresult

end Sys2Proof.Machine
end

section
/-! Branches, jumps, calls and returns (44 R230 to R241): from what the resolver gives to what the instruction
completes with; and the stack bytes a call or an entry leaves, which the matching return pulls (45 R263, R264, 60
R425). -/

namespace Sys2Proof.Machine

/-- An instruction completes when its resolver and its handler do, with the cycles of its row (40 R133). -/
theorem exec_of_execute {i : Instr} {s s1 t : State} {x1 x2 : Nat} (hres : Resolves i s x1 s1)
    (hexecute : execute i.entry.mnemonic i.entry.mode s1 = .next (x2, t)) :
    exec i s = .next { t with rem := cyclesLeft i x1 x2 } := by
  rw [exec_of_resolves hres, hexecute, andThen_next]
  rfl

/-! ## Branches -/

section
variable {i : Instr} {d : Int}

/-- A branch's displacement is its operand value, and its `PC` that of the next instruction (40 R146). -/
theorem resolves_branch (ho : i.operand = .rel d) (s : State) : Resolves i s 0 { s with
    opcode := i.entry.opcode, opv := BitVec.ofInt 16 d, pc := s.pc + 2#16 } := by
  refine resolves_of_resolveBy ((mode_eq_rel_iff i).2 ⟨d, ho⟩) ho ?_
  rw [resolveBy, resolveRel, begun_pc_add_one]
  rfl

theorem pageCross_comm (a b : Word) : pageCross a b = pageCross b a :=
  ite_congr (propext eq_comm) (fun _ => rfl) fun _ => rfl

/-- The page a taken branch is compared by is the next instruction's, from which the handler starts. -/
theorem andThen_branchIf (taken : Bool) (op : Byte) (s : State) :
    andThen (branchIf taken { s with opcode := op, opv := BitVec.ofInt 16 d, pc := s.pc + 2#16 })
      (fun q => .next (finishDispatch 2 .branch 0 q.1 q.2)) = .next (branchAfter op taken d s) := by
  cases taken
  case false => rfl
  case true =>
    have hcycles : 2 + 0 + (1 + pageCross (s.pc + 2#16) (s.pc + 2#16 + BitVec.ofInt 16 d)) - 1 =
        if (s.pc + 2#16 + BitVec.ofInt 16 d).toNat / 256 = (s.pc + 2#16).toNat / 256 then 2 else 3 := by
      rw [pageCross_comm, pageCross_eq]
      split <;> rfl
    rw [branchAfter, if_pos rfl, ← hcycles]
    rfl

/-- A branch completes in every state, on the condition of its mnemonic. -/
theorem exec_branch (hk : isBranch i.entry.mnemonic = true) (hbase : i.entry.base = 2) (ho : i.operand = .rel d)
    (s : State) :
    exec i s = .next (branchAfter i.entry.opcode (branchCond i.entry.mnemonic s.p) d s) := by
  have hextra : i.entry.extra = .branch := (extra_eq_branch i).2 ((mode_eq_rel_iff i).2 ⟨d, ho⟩)
  rw [exec_of_resolves (resolves_branch ho s), execute_branch hk, hbase, hextra, andThen_branchIf]

end

/-- Settles O20: the eight differ in opcode and condition only. -/
theorem branchesTestTheirFlag : Obligations.BranchesTestTheirFlag := fun s d =>
  ⟨exec_branch (i := .bcc d) rfl rfl rfl s, exec_branch (i := .bcs d) rfl rfl rfl s,
    exec_branch (i := .beq d) rfl rfl rfl s, exec_branch (i := .bne d) rfl rfl rfl s,
    exec_branch (i := .bmi d) rfl rfl rfl s, exec_branch (i := .bpl d) rfl rfl rfl s,
    exec_branch (i := .bvc d) rfl rfl rfl s, exec_branch (i := .bvs d) rfl rfl rfl s⟩

/-! ## Jumps -/

section
variable {s : State} {w : Word}

theorem exec_jmpAbs : exec (.jmpAbs w) s = .next { s with opcode := 0x4C#8, ea := w, pc := w, rem := 2 } :=
  exec_of_resolves (i := .jmpAbs w) (resolveAbs_begun (.jmpAbs w) s w)

/-- IND reads its pointer's low byte, then the high one in the pointer's page (40 R150). -/
theorem resolves_jmpInd {t u : State} {lo hi : Byte}
    (hlo : memRead w { s with opcode := 0x6C#8, pc := s.pc + 3#16 } = .next (lo, t))
    (hhi : memRead (indirectHigh w) t = .next (hi, u)) :
    Resolves (.jmpInd w) s 0 { u with ea := mkWord lo hi } := by
  refine andThen_eq_next.2 ⟨(lo, t), ?_, andThen_eq_next.2 ⟨(hi, u), hhi, rfl⟩⟩
  rw [begun_pc_add_two]
  exact hlo

end

/-- Settles O21: both forms go where their resolver's `ea` points; the indirect one's reads leave the
configuration, on which alone it depends whether the pointer's bytes can be read. -/
theorem jumpsGoToEa : Obligations.JumpsGoToEa := by
  intro s w
  refine ⟨exec_jmpAbs, fun hlow hhigh => ?indirect⟩
  rw [indirectHigh_eq] at hhigh ⊢
  obtain ⟨lo, t, hlo⟩ := memRead_of_readable (s := { s with opcode := 0x6C#8, pc := s.pc + 3#16 }) hlow
  have hconfig : t.config = s.config := (memRead_afterRead hlo).config
  obtain ⟨hi, u, hhi⟩ := memRead_of_readable ((readable_congr hconfig).trans hhigh)
  refine ⟨lo, t, hi, u, hlo, hhi, ?_⟩
  rw [← mkWord_eq]
  exact exec_of_resolves (resolves_jmpInd hlo hhi)

/-! ## Calls and returns -/

/-- A word on the stack: its high byte at the stack pointer, its low byte below (40 R157). -/
def pushedWord (w : Word) (s : State) : Memory :=
  (s.ram.write (0x100 + s.sp.toNat) (hiByte w)).write (0x100 + (s.sp - 1#8).toNat) (loByte w)

section
variable (s : State) (w : Word)

/-- JSR pushes the address of its own last byte, one less than the resolver's `PC` (44 R240, decision D6). -/
theorem exec_jsr : exec (.jsr w) s = .next { s with
    opcode := 0x20#8, ea := w, pc := w, sp := s.sp - 2#8, rem := 5, ram := pushedWord (s.pc + 2#16) s } := by
  have hlast : s.pc + 3#16 - 1#16 = s.pc + 2#16 := by rw [BitVec.sub_eq_add_neg, BitVec.add_assoc]; rfl
  rw [← hlast]
  exact exec_of_execute (i := .jsr w) (resolveAbs_begun (.jsr w) s w) (execute_jsr ..)

theorem exec_rts : exec .rts s = .next { s with
    opcode := 0x60#8, sp := s.sp + 2#8, rem := 5
    pc := mkWord (s.ram.read (0x100 + (s.sp + 1#8).toNat)) (s.ram.read (0x100 + (s.sp + 2#8).toNat)) + 1#16 } :=
  exec_of_execute (resolves_imp (i := .rts) rfl s) (execute_rts ..)

theorem exec_rti : exec .rti s = .next { s with
    opcode := 0x40#8, sp := s.sp + 3#8, rem := 5
    p := Flags.unpack (s.ram.read (0x100 + (s.sp + 1#8).toNat))
    pc := mkWord (s.ram.read (0x100 + (s.sp + 2#8).toNat)) (s.ram.read (0x100 + (s.sp + 3#8).toNat)) } :=
  exec_of_execute (resolves_imp (i := .rti) rfl s) (execute_rti ..)

end

/-- Settles O22: the return's word plus one is the sum taken as a word. -/
theorem callAndReturn : Obligations.CallAndReturn := by
  intro s w
  refine ⟨exec_jsr s w, ?rts⟩
  rw [exec_rts, mkWord_eq, ← BitVec.ofNat_add]

/-! ## What calls and entries leave on the stack -/

section
variable {s t u v : State} {ret : Word} {flags : Byte}

/-- A pull reads back the pushed word, also where the stack pointer wraps between its bytes. -/
theorem read_pushedWord (hs : StateInv s) (w : Word) :
    mkWord ((pushedWord w s).read (0x100 + (s.sp - 1#8).toNat)) ((pushedWord w s).read (0x100 + s.sp.toNat)) = w := by
  obtain ⟨hslots, -, -⟩ := stack_distinct s.sp
  rw [pushedWord, Memory.read_write_same (hs.ram.write (stack_in_ram ..) _), Memory.read_write_other _ (by omega),
    Memory.read_write_same hs.ram, mkWord_loByte_hiByte]

theorem pushedWord_wf (hs : StateInv s) (w : Word) : Memory.wf (ramSize s.config) (pushedWord w s) :=
  (hs.ram.write (stack_in_ram ..) _).write (stack_in_ram ..) _

theorem entryRam_eq (ret : Word) (flags : Byte) (s : State) :
    entryRam ret flags s = (pushedWord ret s).write (0x100 + (s.sp - 2#8).toNat) flags := rfl

/-- The state an entry or a BRK leaves for the return from it: three bytes on the stack (45 R263, 60 R410, R413). -/
def EnteredWith (ret : Word) (flags : Byte) (s t : State) : Prop :=
  t.sp = s.sp - 3#8 ∧ t.ram = entryRam ret flags s

theorem enterVector_entered {vector : Word} (h0 : 0x8000 ≤ vector.toNat) (h1 : 0x8000 ≤ (vector + 1#16).toNat)
    (h : enterVector ret flags vector s = .next t) : EnteredWith ret flags s t := by
  obtain ⟨lo, hlo⟩ := plainByte_high_isSome s h0
  obtain ⟨hi, hhi⟩ := plainByte_high_isSome s h1
  rw [enterVector_eq h0 h1 hlo hhi] at h
  cases h
  exact ⟨rfl, rfl⟩

theorem interrupt_entered (h : nmiEntry s = .next t ∨ irqEntry s = .next t) :
    EnteredWith s.pc (s.p.pack &&& 0xEF#8) s t := by
  rcases h with h | h
  all_goals
    obtain ⟨e, henter, hrem⟩ := andThen_eq_next.1 h
    cases hrem
    exact (enterVector_entered (by decide) (by decide) henter : EnteredWith _ _ s e)

/-- The handler of BRK starts one past the opcode and pushes one more (decision D5). -/
theorem brk_entered (h : exec .brk s = .next t) :
    EnteredWith (s.pc + 2#16) ({ s.p with b := true }.pack ||| 0x10#8) s t := by
  obtain ⟨lo, hi, -, -, hbrk⟩ := execute_brk .imp (begun .brk s)
  rw [begun_pc_add_one] at hbrk
  cases h.symm.trans (exec_of_execute (resolves_imp (i := .brk) rfl s) hbrk)
  exact ⟨rfl, rfl⟩

/-- RTI undoes an entry, whatever vector it went through: `PC` and `S` as pushed, the flags those of the byte. -/
theorem rti_of_entered (hs : StateInv s) (ht : EnteredWith ret flags s t) (hsp : u.sp = t.sp) (hram : u.ram = t.ram)
    (h : exec .rti u = .next v) : v.pc = ret ∧ v.sp = s.sp ∧ v.p = Flags.unpack flags := by
  obtain ⟨htsp, htram⟩ := ht
  obtain ⟨hpull1, hpull2, hpull3⟩ := stack_pulls s.sp
  obtain ⟨-, hslot2, hslot1⟩ := stack_distinct s.sp
  rw [exec_rti, hsp, hram, htsp, htram, hpull1, hpull2, hpull3, entryRam_eq,
    Memory.read_write_same (pushedWord_wf hs ret), Memory.read_write_other _ (by omega),
    Memory.read_write_other _ (by omega), read_pushedWord hs] at h
  cases h
  exact ⟨rfl, rfl, rfl⟩

/-- RTS undoes a call. -/
theorem rts_of_jsr {w : Word} (hs : StateInv s) (ht : exec (.jsr w) s = .next t) (hsp : u.sp = t.sp)
    (hram : u.ram = t.ram) (h : exec .rts u = .next v) : v.pc = s.pc + 3#16 ∧ v.sp = s.sp := by
  have hpull1 : s.sp - 2#8 + 1#8 = s.sp - 1#8 := by rw [← sub_one_one, BitVec.sub_add_cancel]
  rw [exec_jsr] at ht
  cases ht
  rw [exec_rts, hsp, hram, hpull1, BitVec.sub_add_cancel, read_pushedWord hs, BitVec.add_assoc] at h
  cases h
  exact ⟨rfl, rfl⟩

end

/-- Settles O28: each return reads the bytes its call or entry pushed, and of the flags' byte all but bit 4 is
the flags. -/
theorem returnsUndoCallsAndEntries : Obligations.ReturnsUndoCallsAndEntries := by
  intro s t u v hs hsp hram
  refine ⟨fun w hcall hret => ?call, fun hentry hret => ?interrupt, fun hbrk hret => ?brk⟩
  case call => exact rts_of_jsr hs hcall hsp hram hret
  case interrupt => exact unpack_pushed s.p false ▸ rti_of_entered hs (interrupt_entered hentry) hsp hram hret
  case brk => exact unpack_pushed s.p true ▸ rti_of_entered hs (brk_entered hbrk) hsp hram hret

end Sys2Proof.Machine
end

section
/-! The stack, the flags, BRK and RTI (45 R250 to R264): all are IMP, so that each handler starts from the state the
opcode's fetch leaves, and what it does is the whole instruction. -/

namespace Sys2Proof.Machine

/-- An IMP instruction completes with what its handler does to the state at the dispatch. -/
theorem exec_imp_of_execute {i : Instr} {s t : State} {x2 : Nat} (hm : i.entry.mode = .imp)
    (hexecute : execute i.entry.mnemonic i.entry.mode (begun i s) = .next (x2, t)) :
    exec i s = .next { t with rem := cyclesLeft i 0 x2 } :=
  exec_of_execute (resolves_imp hm s) hexecute

/-- The return address BRK pushes is two past its opcode: the handler adds one to the `PC` the fetch has moved
(decision D5). -/
theorem exec_brk (s : State) : ∃ lo hi, plainByte 0xFFFE#16 s = some lo ∧ plainByte 0xFFFF#16 s = some hi ∧
    exec .brk s = .next { s with
      opcode := 0x00#8, sp := s.sp - 3#8, rem := 6, p := { s.p with b := true, i := true }, pc := mkWord lo hi
      ram := entryRam (s.pc + 2#16) ({ s.p with b := true }.pack ||| 0x10#8) s } := by
  obtain ⟨lo, hi, hlo, hhi, hbrk⟩ := execute_brk .imp (begun .brk s)
  rw [begun_pc_add_one] at hbrk
  exact ⟨lo, hi, hlo, hhi, exec_imp_of_execute (i := .brk) rfl hbrk⟩

/-- Settles O25: the vector's bytes are plain memory in both bus maps, and the pushes do not reach them. -/
theorem brkEntersTheIrqVector : Obligations.BrkEntersTheIrqVector := by
  intro s
  obtain ⟨lo, hi, hlo, hhi, hbrk⟩ := exec_brk s
  exact ⟨lo, hi, hlo, hhi, mkWord_eq lo hi ▸ hbrk⟩

/-- Settles O26: the word pulled is the sum of its two bytes. -/
theorem rtiRestoresFlagsAndPc : Obligations.RtiRestoresFlagsAndPc := by
  intro s
  refine ⟨_, rfl, ?_⟩
  rw [exec_rti, mkWord_eq]
  rfl

/-- Settles O23: the stack page is RAM in both bus maps, so that a push and a pull complete in every state. -/
theorem stackInstructions : Obligations.StackInstructions := fun _ =>
  ⟨exec_imp_of_execute (i := .pha) rfl (execute_pha ..), exec_imp_of_execute (i := .php) rfl (execute_php ..),
    ⟨_, rfl, exec_imp_of_execute (i := .pla) rfl (execute_pla ..)⟩,
    ⟨_, rfl, exec_imp_of_execute (i := .plp) rfl (execute_plp ..)⟩⟩

/-- Settles O24: all eight are IMP and touch registers only, seven the one flag and NOP none. -/
theorem flagInstructions : Obligations.FlagInstructions := fun s =>
  ⟨exec_register (i := .clc) rfl rfl s, exec_register (i := .sec) rfl rfl s, exec_register (i := .cli) rfl rfl s,
    exec_register (i := .sei) rfl rfl s, exec_register (i := .cld) rfl rfl s, exec_register (i := .sed) rfl rfl s,
    exec_register (i := .clv) rfl rfl s, exec_register (i := .nop) rfl rfl s⟩

end Sys2Proof.Machine
end

section
/-! The PPU's clock (47 R300 to R309): what one clock changes, the cadence of a frame by induction on the number of
clocks, and how long the two request flags last through a system tick. -/

namespace Sys2Proof.Machine

/-! ## One clock -/

section
variable {s : State}

/-- A pixel's colour does not depend on what the events of its position set. -/
theorem pixelColour_ppuEvents (x y : Nat) : pixelColour x y (ppuEvents s) = pixelColour x y s := by
  rw [ppuEvents_eq]
  rfl

/-- One clock, in one update (47 R301). -/
theorem ppuClock_eq (h : s.ppuFault = none) : ppuClock s = { s with
    vblank := if s.scanline = -1 ∧ s.cycle = 1 then false
      else if s.scanline = 241 ∧ s.cycle = 1 then true else s.vblank
    nmi := s.nmi || (decide (s.scanline = 241 ∧ s.cycle = 1) && s.ppuctrl.getLsbD 7)
    sink := if 0 ≤ s.scanline ∧ s.scanline < 240 ∧ s.cycle < 256 then
        ⟨BitVec.ofNat 8 s.cycle, BitVec.ofNat 8 s.scanline.toNat, pixelColour s.cycle s.scanline.toNat s⟩ :: s.sink
      else s.sink
    cycle := if s.cycle + 1 = 341 then 0 else s.cycle + 1
    scanline := if s.cycle + 1 = 341 then (if s.scanline + 1 = 261 then -1 else s.scanline + 1) else s.scanline
    frameComplete := s.frameComplete || decide (s.cycle + 1 = 341 ∧ s.scanline + 1 = 261) } := by
  have hclock : ppuClock s = ppuAdvance (ppuPixel (ppuEvents s)) := by rw [ppuClock, h]
  rw [hclock, ppuAdvance_eq, ppuPixel_eq, pixelColour_ppuEvents, ppuEvents_eq]

theorem ppuClock_ppuFault : (ppuClock s).ppuFault = s.ppuFault := by rw [ppuClock_effect]

theorem ppuClock_ppuctrl : (ppuClock s).ppuctrl = s.ppuctrl := by rw [ppuClock_effect]

theorem ppuClock_cycle (h : s.ppuFault = none) :
    (ppuClock s).cycle = if s.cycle + 1 = 341 then 0 else s.cycle + 1 := by rw [ppuClock_eq h]

theorem ppuClock_scanline (h : s.ppuFault = none) : (ppuClock s).scanline =
    if s.cycle + 1 = 341 then (if s.scanline + 1 = 261 then -1 else s.scanline + 1) else s.scanline := by
  rw [ppuClock_eq h]

theorem ppuClock_frameComplete (h : s.ppuFault = none) :
    (ppuClock s).frameComplete = (s.frameComplete || decide (s.cycle + 1 = 341 ∧ s.scanline + 1 = 261)) := by
  rw [ppuClock_eq h]

theorem ppuClock_vblank (h : s.ppuFault = none) : (ppuClock s).vblank =
    if s.scanline = -1 ∧ s.cycle = 1 then false
    else if s.scanline = 241 ∧ s.cycle = 1 then true else s.vblank := by rw [ppuClock_eq h]

theorem ppuClock_nmi (h : s.ppuFault = none) :
    (ppuClock s).nmi = (s.nmi || (decide (s.scanline = 241 ∧ s.cycle = 1) && s.ppuctrl.getLsbD 7)) := by
  rw [ppuClock_eq h]

theorem ppuClock_sink (h : s.ppuFault = none) : (ppuClock s).sink =
    if 0 ≤ s.scanline ∧ s.scanline < 240 ∧ s.cycle < 256 then
      ⟨BitVec.ofNat 8 s.cycle, BitVec.ofNat 8 s.scanline.toNat, pixelColour s.cycle s.scanline.toNat s⟩ :: s.sink
    else s.sink := by rw [ppuClock_eq h]

end

/-- The line of a pixel as a byte, from the number or from its image among the naturals. -/
theorem ofNat_toNat_eq_ofInt {y : Int} (h : 0 ≤ y) : BitVec.ofNat 8 y.toNat = BitVec.ofInt 8 y := by
  rw [← BitVec.ofInt_natCast, Int.toNat_of_nonneg h]

/-- Settles O48: the clock is one update, in which the position advances within a line, to the next line, or to
the next frame. -/
theorem ppuClockTick : Obligations.PpuClockTick := by
  intro s hfault _ _ _
  refine ⟨(ppuClock s).scanline, (ppuClock s).cycle, (ppuClock s).frameComplete, ?update, ?within, ?line, ?frame⟩
  case update =>
    rw [ppuClock_eq hfault]
    congr 1
    exact ite_congr rfl (fun hvisible => by rw [ofNat_toNat_eq_ofInt hvisible.1]) fun _ => rfl
  all_goals rw [ppuClock_cycle hfault, ppuClock_scanline hfault, ppuClock_frameComplete hfault]
  case within =>
    intro hlt
    simp [show s.cycle + 1 ≠ 341 by omega]
  case line =>
    intro hend hlt
    simp [hend, show s.scanline + 1 ≠ 261 by omega]
  case frame =>
    intro hend hlast
    simp [hend, hlast]

/-! ## The frame -/

section
variable {s : State} (hfault : s.ppuFault = none) (hline : s.scanline = -1) (hcycle : s.cycle = 0)

include hfault in
theorem ppuClocks_ppuFault (n : Nat) : (ppuClocks n s).ppuFault = none := by
  induction n with
  | zero => exact hfault
  | succ n ih => exact ppuClock_ppuFault.trans ih

include hfault hline hcycle

/-- The position after `n` clocks from the start of a frame, in this frame or a later one (47 R304). -/
theorem ppuClocks_position (n : Nat) :
    (ppuClocks n s).cycle = n % 341 ∧ (ppuClocks n s).scanline = (n / 341 % 262 : Nat) - 1 := by
  induction n with
  | zero => exact ⟨hcycle, hline⟩
  | succ n ih =>
    obtain ⟨hc, hl⟩ := ih
    have hn := ppuClocks_ppuFault hfault n
    rw [ppuClocks, ppuClock_cycle hn, ppuClock_scanline hn, hc, hl]
    constructor
    · split <;> omega
    · split
      · split <;> omega
      · omega

/-- `frameComplete` is set by the last clock of the frame. -/
theorem ppuClocks_frameComplete (hdone : s.frameComplete = false) (n : Nat) :
    (ppuClocks n s).frameComplete = decide (89342 ≤ n) := by
  induction n with
  | zero => exact hdone
  | succ n ih =>
    obtain ⟨hc, hl⟩ := ppuClocks_position hfault hline hcycle n
    rw [ppuClocks, ppuClock_frameComplete (ppuClocks_ppuFault hfault n), ih, hc, hl, ← Bool.decide_or]
    exact decide_eq_decide.2 (by omega)

/-- Vertical blank begins 82522 clocks after the clock that ends it, the second of each frame (47 R302, R303). -/
theorem ppuClocks_vblank {n : Nat} (hn : 2 ≤ n) :
    (ppuClocks n s).vblank = decide (82522 ≤ (n - 2) % 89342) := by
  induction hn with
  | refl =>
    obtain ⟨hc, hl⟩ := ppuClocks_position hfault hline hcycle 1
    rw [ppuClocks, ppuClock_vblank (ppuClocks_ppuFault hfault 1), hc, hl]
    rfl
  | @step n hn ih =>
    have hn : 2 ≤ n := hn
    obtain ⟨hc, hl⟩ := ppuClocks_position hfault hline hcycle n
    rw [ppuClocks, ppuClock_vblank (ppuClocks_ppuFault hfault n), ih, hc, hl]
    split
    · exact (decide_eq_false (by omega)).symm
    · split
      · exact (decide_eq_true (by omega)).symm
      · exact decide_eq_decide.2 (by omega)

end

/-- How many pixels the first `n` clocks of a frame emit: 256 in each line from 0 to 239 (47 R305). -/
def pixelsEmitted (n : Nat) : Nat := if n < 341 then 0 else min 61440 ((n / 341 - 1) * 256 + min (n % 341) 256)

/-- The position of the `k`-th pixel in raster order (49 R378). -/
def rasterPosition (k : Nat) : Byte × Byte := (BitVec.ofNat 8 (k % 256), BitVec.ofNat 8 (k / 256))

/-- In the visible window a clock emits the next pixel of the raster. -/
theorem pixelsEmitted_visible {n : Nat} (h : 1 ≤ n / 341) (h' : n / 341 ≤ 240) (hx : n % 341 < 256) :
    pixelsEmitted (n + 1) = pixelsEmitted n + 1 ∧ pixelsEmitted n % 256 = n % 341 ∧
      pixelsEmitted n / 256 = n / 341 - 1 := by
  simp only [pixelsEmitted, show ¬ n < 341 by omega, show ¬ n + 1 < 341 by omega, if_false]
  omega

theorem pixelsEmitted_hidden {n : Nat} (h : n / 341 = 0 ∨ 240 < n / 341 ∨ 256 ≤ n % 341) :
    pixelsEmitted (n + 1) = pixelsEmitted n := by
  unfold pixelsEmitted
  split <;> split <;> omega

/-- The pixels of the first `n` clocks of a frame, newest first (log 10). -/
theorem ppuClocks_sink {s : State} (hfault : s.ppuFault = none) (hline : s.scanline = -1) (hcycle : s.cycle = 0)
    {n : Nat} (hn : n ≤ 89342) : ∃ events : List Pixel, (ppuClocks n s).sink = events ++ s.sink ∧
      events.reverse.map (fun e => (e.x, e.y)) = (List.range (pixelsEmitted n)).map rasterPosition := by
  induction n with
  | zero => exact ⟨[], rfl, rfl⟩
  | succ n ih =>
    obtain ⟨events, hsink, hraster⟩ := ih (by omega)
    obtain ⟨hc, hl⟩ := ppuClocks_position hfault hline hcycle n
    rw [ppuClocks, ppuClock_sink (ppuClocks_ppuFault hfault n), hsink, hc, hl]
    split
    case isTrue hvisible =>
      obtain ⟨hnext, hx, hy⟩ := pixelsEmitted_visible (n := n) (by omega) (by omega) hvisible.2.2
      refine ⟨_ :: events, rfl, ?_⟩
      rw [List.reverse_cons, List.map_append, hraster, hnext, List.range_succ, List.map_append, List.map_singleton,
        List.map_singleton, rasterPosition, hx, hy, show ((n / 341 % 262 : Nat) - 1 : Int).toNat = n / 341 - 1 by omega]
    case isFalse hhidden =>
      exact ⟨events, rfl, pixelsEmitted_hidden (n := n) (by omega) ▸ hraster⟩

/-- Settles O49: each clause is one of the closed forms above at the clocks it speaks of. -/
theorem frameCadence : Obligations.FrameCadence := by
  intro s hfault hline hcycle hdone
  have hposition := ppuClocks_position hfault hline hcycle
  have hcomplete := ppuClocks_frameComplete hfault hline hcycle hdone
  have hvblank (n : Nat) (hn : 2 ≤ n) := ppuClocks_vblank hfault hline hcycle hn
  refine ⟨fun n hn => ⟨(hposition n).1, ?line, ?going, fun hn2 => ?vblank⟩, (hposition 89342).1, (hposition 89342).2,
    hcomplete 89342, hvblank 89342 (by decide), hvblank 89344 (by decide), ?pixels⟩
  case line => rw [(hposition n).2, Nat.mod_eq_of_lt (by omega)]
  case going => rw [hcomplete, decide_eq_false (by omega)]
  case vblank =>
    rw [hvblank n hn2, decide_eq_true_eq]
    omega
  case pixels =>
    rw [← show pixelsEmitted 89342 = 61440 by decide]
    exact ppuClocks_sink hfault hline hcycle (Nat.le_refl _)

/-! ## The request flags -/

/-- The PPU's clocks drop neither request flag, and set the NMI request only where `PPUCTRL[7]` is set (47 R303, R308,
R309). -/
structure KeepsRequests (s t : State) : Prop where
  frameComplete : s.frameComplete = true → t.frameComplete = true
  nmi : s.nmi = true → t.nmi = true
  enabled : t.nmi = true → s.nmi = true ∨ s.ppuctrl.getLsbD 7 = true
  ppuctrl : t.ppuctrl = s.ppuctrl

theorem KeepsRequests.trans {s t u : State} (h : KeepsRequests s t) (h' : KeepsRequests t u) : KeepsRequests s u where
  frameComplete hs := h'.frameComplete (h.frameComplete hs)
  nmi hs := h'.nmi (h.nmi hs)
  enabled hu := (h'.enabled hu).elim h.enabled fun hctrl => .inr (h.ppuctrl ▸ hctrl)
  ppuctrl := h'.ppuctrl.trans h.ppuctrl

theorem ppuClock_keepsRequests (s : State) : KeepsRequests s (ppuClock s) := by
  cases hf : s.ppuFault with
  | some f =>
    have hstopped : ppuClock s = s := by rw [ppuClock, hf]
    rw [hstopped]
    exact ⟨id, id, .inl, rfl⟩
  | none =>
    refine ⟨fun hs => ?_, fun hs => ?_, fun hc => ?_, ppuClock_ppuctrl⟩
    · rw [ppuClock_frameComplete hf, hs, Bool.true_or]
    · rw [ppuClock_nmi hf, hs, Bool.true_or]
    · rw [ppuClock_nmi hf, Bool.or_eq_true, Bool.and_eq_true] at hc
      exact hc.imp_right And.right

theorem ppuTicks_keepsRequests (s : State) : KeepsRequests s (ppuTicks s) :=
  ((ppuClock_keepsRequests s).trans (ppuClock_keepsRequests _)).trans (ppuClock_keepsRequests _)

theorem entry_timingAndPorts {ret vector : Word} {flags : Byte} {cycles : Config → Nat} {s t : State}
    (h0 : 0x8000 ≤ vector.toNat) (h1 : 0x8000 ≤ (vector + 1#16).toNat)
    (h : andThen (enterVector ret flags vector s) (fun u => .next { u with rem := cycles u.config }) = .next t) :
    timingAndPorts t = timingAndPorts s := by
  obtain ⟨lo, hlo⟩ := plainByte_high_isSome s h0
  obtain ⟨hi, hhi⟩ := plainByte_high_isSome s h1
  rw [enterVector_eq h0 h1 hlo hhi] at h
  cases h; rfl

theorem nmiEntry_timingAndPorts {s t : State} (h : nmiEntry s = .next t) : timingAndPorts t = timingAndPorts s :=
  entry_timingAndPorts (cycles := Config.nmiCycles) (by decide) (by decide) h

theorem irqEntry_timingAndPorts {s t : State} (h : irqEntry s = .next t) : timingAndPorts t = timingAndPorts s :=
  entry_timingAndPorts (cycles := Config.irqCycles) (by decide) (by decide) h

theorem cpuClock_timingAndPorts {s t : State} (h : cpuClock s = .next t) : timingAndPorts t = timingAndPorts s := by
  unfold cpuClock at h
  split at h
  · obtain ⟨⟨i, u⟩, hfetch, hexec⟩ := andThen_eq_next.1 h
    exact (exec_timingAndPorts hexec).trans (fetch_afterRead hfetch).noStore.timingAndPorts
  · cases h; rfl

theorem flags_of_timingAndPorts {s t : State} (h : timingAndPorts t = timingAndPorts s) :
    t.frameComplete = s.frameComplete ∧ t.nmi = s.nmi := by
  simp only [timingAndPorts, Prod.mk.injEq] at h
  obtain ⟨-, -, hframe, hnmi, -⟩ := h
  exact ⟨hframe, hnmi⟩

/-- A whole tick keeps less than the PPU's clocks do: it may deliver the NMI at an instruction boundary (47 R303, R308,
R309). -/
structure TickKeepsRequests (s t : State) : Prop where
  frameComplete : s.frameComplete = true → t.frameComplete = true
  nmi : s.nmi = true → s.rem ≠ 0 → t.nmi = true
  enabled : s.nmi = false → t.nmi = true → s.ppuctrl.getLsbD 7 = true

/-- A state with the same two flags keeps them. -/
theorem TickKeepsRequests.of_eq {s t : State} (hframe : t.frameComplete = s.frameComplete) (hnmi : t.nmi = s.nmi) :
    TickKeepsRequests s t :=
  ⟨fun hs => hframe.trans hs, fun hs _ => hnmi.trans hs,
    fun hs ht => Bool.noConfusion (hs.symm.trans (hnmi.symm.trans ht))⟩

/-- Delivery clears an NMI request at an instruction boundary only, and sets none (60 R412). -/
theorem deliver_requests {s t : State} (h : deliver s = .next t) :
    t.frameComplete = s.frameComplete ∧ (s.rem ≠ 0 → t.nmi = s.nmi) ∧ (t.nmi = true → s.nmi = true) := by
  unfold deliver at h
  split at h
  case isTrue hrem =>
    split at h
    case isTrue hnmi =>
      obtain ⟨hframe, -⟩ := flags_of_timingAndPorts (nmiEntry_timingAndPorts h)
      exact ⟨hframe, fun hne => absurd hrem hne, fun _ => hnmi⟩
    case isFalse =>
      have hflags : t.frameComplete = s.frameComplete ∧ t.nmi = s.nmi := by
        split at h
        · exact flags_of_timingAndPorts (irqEntry_timingAndPorts h)
        · cases h; exact ⟨rfl, rfl⟩
      obtain ⟨hframe, hnmi⟩ := hflags
      exact ⟨hframe, fun _ => hnmi, fun ht => hnmi ▸ ht⟩
  case isFalse => cases h; exact ⟨rfl, fun _ => rfl, id⟩

theorem systemTick_keepsRequests {s t : State} (h : systemTick s = .next t) : TickKeepsRequests s t := by
  obtain ⟨u, hdeliver, hclock⟩ := andThen_eq_next.1 h
  obtain ⟨hframe, hkept, hset⟩ := deliver_requests hdeliver
  obtain ⟨hframe', hnmi'⟩ := flags_of_timingAndPorts (cpuClock_timingAndPorts hclock)
  have hppu := ppuTicks_keepsRequests s
  refine ⟨fun hs => ?frame, fun hs hrem => ?nmi, fun hs ht => ?enabled⟩
  case frame => rw [hframe', hframe, hppu.frameComplete hs]
  case nmi => rw [hnmi', hkept (by rwa [ppuTicks_rem]), hppu.nmi hs]
  case enabled =>
    have hraised := hppu.enabled (hset (hnmi' ▸ ht))
    exact hraised.resolve_left (hs ▸ Bool.false_ne_true)

theorem latchFault_keepsRequests (f : Fault) (s : State) : TickKeepsRequests s (latchFault f s) := by
  unfold latchFault
  split <;> exact .of_eq rfl rfl

/-- A tick that a fault ends leaves the state before it, with the fault latched (log 7). -/
theorem settle_systemTick_keepsRequests {s t : State} (h : settle s (systemTick s) = .next t) :
    TickKeepsRequests s t := by
  cases hr : systemTick s with
  | next u =>
    rw [hr] at h
    cases h
    exact systemTick_keepsRequests hr
  | fault f =>
    rw [hr] at h
    cases h
    exact latchFault_keepsRequests f s
  | refused e => rw [hr] at h; cases h

/-- A step that ticks is a settled tick, or of a latched machine, where a scheduled tick does nothing and an
unscheduled one stops (logs 1, 7). -/
theorem step_keepsRequests {s u t : State} (hticks : Ticks s u) (h : step s = .next t) : TickKeepsRequests s t := by
  cases hf : latchedFault s with
  | none =>
    rw [step_ticks hticks hf] at h
    rcases hticks with ⟨-, rfl⟩ | ⟨-, hu⟩
    · exact settle_systemTick_keepsRequests h
    · rw [hu] at h
      obtain ⟨hframe, hnmi, henabled⟩ := settle_systemTick_keepsRequests h
      exact ⟨hframe, hnmi, henabled⟩
  | some f =>
    rcases hticks with ⟨hhost, -⟩ | ⟨hhost, -⟩
    · rw [step_latched hhost hf] at h; cases h
    · rw [step_call_latched (.inl rfl) hhost hf] at h
      cases h
      exact .of_eq rfl rfl

/-- Settles O54: of the three parts of a tick only the PPU's clocks set a request flag, and only delivery clears
one, the NMI request at an instruction boundary. -/
theorem requestFlagsAreSticky : Obligations.RequestFlagsAreSticky := by
  intro s u t hticks h
  obtain ⟨hframe, hnmi, henabled⟩ := step_keepsRequests hticks h
  exact ⟨hframe, hnmi, henabled⟩

end Sys2Proof.Machine
end

section
/-! The PPU's registers and bus (48 R320 to R348): what an address of the bus reaches, a write and the reads after it,
and the effect of each register access. -/

namespace Sys2Proof.Machine

/-! ## What an address reaches -/

theorem ppuAddr_ofNat_toNat {n : Nat} (h : n < 0x4000) : (BitVec.ofNat 14 n).toNat = n := by
  rw [BitVec.toNat_ofNat, Nat.mod_eq_of_lt h]

theorem ppuByte_pal {addr : PpuAddr} (h : 0x3F00 ≤ addr.toNat) (s : State) :
    ppuByte addr s = s.pal.read (palIndex addr) := by
  rw [ppuByte, ppuRoute_pal h]

/-- The first of each four entries is one cell for the background and the sprites (48 R345). -/
theorem palIndex_aliased {addr : PpuAddr} (h : addr.toNat % 4 = 0) : palIndex addr = addr.toNat % 16 := by
  unfold palIndex
  dsimp only
  split <;> omega

theorem palIndex_own {addr : PpuAddr} (h : addr.toNat % 4 ≠ 0) : palIndex addr = addr.toNat % 32 := by
  unfold palIndex
  exact if_neg (by omega)

theorem palIndex_congr {u v : PpuAddr} (h : u.toNat % 32 = v.toNat % 32) : palIndex u = palIndex v := by
  rw [palIndex, palIndex, h]

/-- Settles O46: each range by its route, the mirrors by the route of their image. -/
theorem ppuBusMirrors : Obligations.PpuBusMirrors := by
  intro s addr
  refine ⟨fun h => ?chr, fun h h' => ?nt, fun h h' => ?mirror, fun h => ?palette, fun h hfour => ?aliased,
    fun h hown => ?own⟩
  case chr => rw [ppuByte, ppuRoute_chr h]
  case nt => rw [ppuByte, ppuRoute_nt h h']
  case mirror => exact (ppuByte_congr s (ppuRoute_image h h' (ppuAddr_ofNat_toNat (by omega)))).symm
  case palette =>
    have himage : (BitVec.ofNat 14 (0x3F00 + addr.toNat % 32)).toNat = 0x3F00 + addr.toNat % 32 :=
      ppuAddr_ofNat_toNat (by omega)
    have hcell : palIndex addr = palIndex (BitVec.ofNat 14 (0x3F00 + addr.toNat % 32)) := palIndex_congr (by omega)
    rw [ppuByte_pal h, ppuByte_pal (by omega), hcell]
  case aliased => rw [ppuByte_pal h, palIndex_aliased (by omega)]
  case own => rw [ppuByte_pal h, palIndex_own hown]

/-! ## Writing and reading back -/

/-- The byte in a cell of the PPU bus. -/
def PpuPlace.byte (s : State) : PpuPlace → Byte
  | .chr i => s.chr.read i
  | .nt i => s.nt.read i
  | .pal i => s.pal.read i

/-- The state with the byte in a cell of the PPU bus replaced. -/
def PpuPlace.store (b : Byte) (s : State) : PpuPlace → State
  | .chr i => { s with chr := s.chr.write i b }
  | .nt i => { s with nt := s.nt.write i b }
  | .pal i => { s with pal := s.pal.write i b }

theorem ppuByte_eq_byte (addr : PpuAddr) (s : State) : ppuByte addr s = (ppuRoute s.config addr).byte s := rfl

/-- An accepted write replaces the byte of the cell its address reaches (48 R341). -/
theorem ppuWrite_store {addr : PpuAddr} {b : Byte} {s t : State} (h : ppuWrite (addr.setWidth 16) b s = .next t) :
    t = (ppuRoute s.config addr).store b s := by
  rw [ppuWrite_eq] at h
  cases hr : ppuRoute s.config addr with
  | chr i =>
    cases hw : s.config.chrWritable with
    | true => simp only [hr, hw, if_true] at h; cases h; rfl
    | false => simp only [hr, hw] at h; cases h
  | nt i => rw [hr] at h; cases h; rfl
  | pal i => rw [hr] at h; cases h; rfl

theorem PpuPlace.store_config (p : PpuPlace) (b : Byte) (s : State) : (p.store b s).config = s.config := by
  cases p <;> rfl

theorem PpuPlace.byte_store_same {s : State} (hi : StateInv s) (p : PpuPlace) (b : Byte) :
    p.byte (p.store b s) = b := by
  cases p with
  | chr i => exact Memory.read_write_same hi.chr b
  | nt i => exact Memory.read_write_same hi.nt b
  | pal i => exact Memory.read_write_same hi.pal.1 b

/-- Cells of two memories are apart; cells of one memory are when their indices are. -/
theorem PpuPlace.byte_store_other {p q : PpuPlace} (hne : q ≠ p) (b : Byte) (s : State) :
    q.byte (p.store b s) = q.byte s := by
  cases p with
  | chr i =>
    cases q with
    | chr j => exact Memory.read_write_other b fun e => hne (congrArg _ e)
    | nt j | pal j => rfl
  | nt i =>
    cases q with
    | nt j => exact Memory.read_write_other b fun e => hne (congrArg _ e)
    | chr j | pal j => rfl
  | pal i =>
    cases q with
    | pal j => exact Memory.read_write_other b fun e => hne (congrArg _ e)
    | chr j | nt j => rfl

/-- Settles O47: the write replaces one cell, and a read gives the byte of the cell its address reaches. -/
theorem ppuWriteThenRead : Obligations.PpuWriteThenRead := by
  intro s t addr other b hi h
  rw [ppuAddr_wide] at h
  obtain rfl := ppuWrite_store h
  rw [ppuByte_eq_byte other (PpuPlace.store ..), PpuPlace.store_config, ppuByte_eq_byte]
  refine ⟨fun hsame => ?same, fun hother => ?other, ?palette⟩
  case same => rw [hsame, PpuPlace.byte_store_same hi]
  case other => exact PpuPlace.byte_store_other hother b s
  case palette => rfl

/-! ## `PPUADDR` -/

/-- Joining two bit vectors with no bit in common adds them: here the bits from 8 up and the low eight. -/
theorem toNat_or_of_high_low {x y : PpuAddr} {n : Nat} (hx : x.toNat = n * 256) (hy : y.toNat < 256) :
    (x ||| y).toNat = n * 256 + y.toNat := by
  have hor := Nat.two_pow_add_eq_or_of_lt (i := 8) hy n
  rw [BitVec.toNat_or, hx, Nat.mul_comm n 256]
  exact hor.symm

theorem toNat_and_low (v : PpuAddr) : (v &&& 0x00FF#14).toNat = v.toNat % 256 :=
  Nat.and_two_pow_sub_one_eq_mod v.toNat 8

theorem toNat_and_high (v : PpuAddr) : (v &&& 0x3F00#14).toNat = v.toNat / 256 * 256 := by
  have hlow : (v.toNat &&& 0x3F00) % 2 ^ 8 = v.toNat % 2 ^ 8 &&& 0x3F00 % 2 ^ 8 := Nat.and_mod_two_pow ..
  have hhigh : (v.toNat &&& 0x3F00) / 2 ^ 8 = v.toNat / 2 ^ 8 &&& 0x3F00 / 2 ^ 8 := Nat.and_div_two_pow ..
  have hmask : v.toNat / 2 ^ 8 &&& 0x3F = v.toNat / 2 ^ 8 % 2 ^ 6 := Nat.and_two_pow_sub_one_eq_mod _ 6
  have hv := v.isLt
  simp only [Nat.reducePow, Nat.reduceMod, Nat.reduceDiv, Nat.and_zero] at hlow hhigh hmask
  change v.toNat &&& 0x3F00 = _
  omega

theorem toNat_lowSix_shift (b : Byte) : ((b &&& 0x3F#8).setWidth 14 <<< 8).toNat = b.toNat % 64 * 256 := by
  have hmask : (b &&& 0x3F#8).toNat = b.toNat % 64 := Nat.and_two_pow_sub_one_eq_mod b.toNat 6
  rw [BitVec.toNat_shiftLeft, BitVec.toNat_setWidth, hmask, Nat.shiftLeft_eq]
  omega

/-- A write of `PPUADDR` changes `v` and flips `w`. -/
theorem writePpuAddr_effect (b : Byte) (s : State) :
    writePpuAddr b s = { s with v := (writePpuAddr b s).v, w := !s.w } := by
  cases hw : s.w <;> simp [writePpuAddr, hw]

theorem writePpuAddr_first {s : State} (h : s.w = false) (b : Byte) :
    (writePpuAddr b s).v.toNat = b.toNat % 64 * 256 + s.v.toNat % 256 := by
  have hv : (writePpuAddr b s).v = ((b &&& 0x3F#8).setWidth 14 <<< 8) ||| (s.v &&& 0x00FF#14) := by
    simp [writePpuAddr, h]
  have hlow := toNat_and_low s.v
  rw [hv, toNat_or_of_high_low (toNat_lowSix_shift b) (by omega), hlow]

theorem writePpuAddr_second {s : State} (h : s.w = true) (b : Byte) :
    (writePpuAddr b s).v.toNat = s.v.toNat / 256 * 256 + b.toNat := by
  have hv : (writePpuAddr b s).v = (s.v &&& 0x3F00#14) ||| b.setWidth 14 := by simp [writePpuAddr, h]
  have hb := b.isLt
  have hlow : (b.setWidth 14).toNat = b.toNat := BitVec.toNat_setWidth_of_le (by decide)
  rw [hv, toNat_or_of_high_low (toNat_and_high s.v) (by omega), hlow]

/-- Settles O44: the two halves of `v` are joined without overlap. -/
theorem addressWritesSetV : Obligations.AddressWritesSetV := by
  intro s b hfault
  refine ⟨(writePpuAddr b s).v, ?_, fun hw => writePpuAddr_first hw b, fun hw => writePpuAddr_second hw b⟩
  rw [← writePpuAddr_effect]
  exact ppuWriteReg_eq hfault 6 b

/-! ## `PPUDATA` -/

theorem toNat_add_ppuInc (s : State) :
    (s.v + ppuInc s).toNat = (s.v.toNat + if s.ppuctrl.getLsbD 2 then 32 else 1) % 0x4000 := by
  rw [BitVec.toNat_add, ppuInc]
  cases s.ppuctrl.getLsbD 2 <;> rfl

/-- The bus write leaves `v` and `PPUCTRL`, so that the advance is the one before it. -/
theorem writePpuData_of_ppuWrite {b : Byte} {s t : State} (h : ppuWrite (s.v.setWidth 16) b s = .next t) :
    writePpuData b s = .next { t with v := s.v + ppuInc s } := by
  rw [writePpuData, h, andThen_next, ppuWrite_afterWrite h]
  rfl

/-- Graphics ROM takes no write (48 R341). -/
theorem ppuWrite_readOnly {addr : PpuAddr} {s : State} (h : addr.toNat < 0x2000) (hrom : s.config.chrWritable = false)
    (b : Byte) : ppuWrite (addr.setWidth 16) b s = .fault (.readOnlyViolation .ppu (addr.setWidth 16)) := by
  rw [ppuWrite_eq, ppuRoute_chr h, hrom]
  rfl

/-- Settles O45: a read always reaches a range, a write is accepted everywhere but in graphics ROM, and a fault of
the bus write ends the access before the advance. -/
theorem dataAccessesAdvanceV : Obligations.DataAccessesAdvanceV := by
  intro s b hfault
  rw [ppuAddr_wide, show ppuWriteReg 7 b s = writePpuData b s from ppuWriteReg_eq hfault 7 b]
  refine ⟨s.v + ppuInc s, toNat_add_ppuInc s, ?read, fun hwritable => ?write, fun ⟨hchr, hrom⟩ => ?readOnly⟩
  case read => exact (ppuReadReg_eq hfault 7).trans (readPpuData_eq s)
  case write =>
    obtain ⟨t, ht⟩ := ppuWrite_of_writable hwritable
    exact ⟨t, ht, writePpuData_of_ppuWrite ht⟩
  case readOnly => rw [writePpuData, ppuWrite_readOnly hchr hrom, andThen_fault]

/-! ## The other registers -/

/-- A read while a PPU fault is latched (48 R320, log 13). -/
theorem ppuReadReg_latched {s : State} (h : s.ppuFault ≠ none) (i : BitVec 3) :
    ppuReadReg i s = .next (drawByte s, countDraw s) := by
  obtain ⟨f, hf⟩ := Option.ne_none_iff_exists'.1 h
  rw [ppuReadReg, hf]

/-- A write while a PPU fault is latched (48 R320). -/
theorem ppuWriteReg_latched {s : State} (h : s.ppuFault ≠ none) (i : BitVec 3) (b : Byte) :
    ppuWriteReg i b s = .next s := by
  obtain ⟨f, hf⟩ := Option.ne_none_iff_exists'.1 h
  rw [ppuWriteReg, hf]

/-- A read of a write-only register (48 R334). -/
theorem ppuReadReg_writeOnly {s : State} (h : s.ppuFault = none) {i : BitVec 3}
    (hi : i = 0 ∨ i = 1 ∨ i = 3 ∨ i = 5 ∨ i = 6) : ppuReadReg i s = .next (drawByte s, countDraw s) := by
  rw [ppuReadReg_eq h]
  rcases hi with rfl | rfl | rfl | rfl | rfl <;> rfl

/-- Bit 7 of the status byte is the flag's alone: the seven free bits are below it. -/
theorem statusByte_bit7 (vblank : Bool) (d : Byte) :
    ((if vblank then 0x80#8 else 0x00#8) ||| (d &&& 0x7F#8)).getLsbD 7 = vblank := by
  cases vblank <;> simp

/-- Settles O42: `readStatus` is the whole effect. -/
theorem statusReadClearsVblankAndLatch : Obligations.StatusReadClearsVblankAndLatch := fun s hfault =>
  ⟨_, ppuReadReg_eq hfault 2, statusByte_bit7 s.vblank (drawByte s)⟩

/-- Settles O43: each register by its own arm; with a fault latched no access does anything. -/
theorem plainPpuRegisters : Obligations.PlainPpuRegisters := by
  intro s b
  refine ⟨fun hfault => ?working, fun hlatched i => ?latched⟩
  case working =>
    have hwrite (i : BitVec 3) := ppuWriteReg_eq hfault i b
    exact ⟨hwrite 0, hwrite 1, hwrite 2, hwrite 3, hwrite 4, hwrite 5, ppuReadReg_eq hfault 4,
      fun i hi => ⟨_, ppuReadReg_writeOnly hfault hi⟩⟩
  case latched => exact ⟨ppuWriteReg_latched hlatched i b, _, ppuReadReg_latched hlatched i⟩

end Sys2Proof.Machine
end

section
/-! The pixels of the picture (49 R360 to R376): the model's quotients and remainders are the shifts and masks of the
rules, the foreground sprite is the first that shows, and a pixel reads few fields of the state. -/

namespace Sys2Proof.Machine

/-! ## Shifts and masks -/

/-- Putting numbers of at most `k` bits below another adds them. -/
theorem shiftLeft_or_eq {a b k : Nat} (h : b < 2 ^ k) : a <<< k ||| b = a * 2 ^ k + b := by
  rw [← Nat.shiftLeft_add_eq_or_of_lt h, Nat.shiftLeft_eq]

/-- The bit of weight 2, by its halves: the half of the and, and the bit below it, which is clear. -/
theorem and_two_eq (n : Nat) : n &&& 2 = n / 2 % 2 * 2 := by
  have hhalf : (n &&& 2) / 2 = n / 2 % 2 := by rw [Nat.and_div_two, Nat.and_one_is_mod]
  have hlow : (n &&& 2) % 2 ≠ 1 := fun h => absurd (Nat.and_mod_two_eq_one.1 h).2 (by decide)
  omega

theorem and_three_eq (n : Nat) : n &&& 3 = n % 4 := Nat.and_two_pow_sub_one_eq_mod n 2

theorem and_seven_eq (n : Nat) : n &&& 7 = n % 8 := Nat.and_two_pow_sub_one_eq_mod n 3

/-- The colour index takes one bit of each plane, plane 1 high (49 R365). -/
theorem planeIndex_eq (lo hi : Byte) (bit : Nat) :
    planeIndex lo hi bit = (hi.toNat >>> bit &&& 1) <<< 1 ||| (lo.toNat >>> bit &&& 1) := by
  have hbit (b : Byte) : (b.getLsbD bit).toNat = b.toNat >>> bit &&& 1 := by
    rw [BitVec.getLsbD, Nat.toNat_testBit, Nat.and_one_is_mod, Nat.shiftRight_eq_div_pow]
  have hlow : lo.toNat >>> bit &&& 1 < 2 ^ 1 := Nat.and_lt_two_pow _ (by decide)
  rw [planeIndex, hbit, hbit, shiftLeft_or_eq hlow, Nat.pow_one]

/-- The two bytes of a row in a tile, and the index at a column (49 R364, R365). -/
theorem tileIndex_eq (base : Nat) (tile : Byte) (row col : Nat) (s : State) :
    tileIndex base tile row col s =
      ((ppuAt (base + tile.toNat * 16 + row + 8) s).toNat >>> (7 - col) &&& 1) <<< 1 |||
        ((ppuAt (base + tile.toNat * 16 + row) s).toNat >>> (7 - col) &&& 1) :=
  planeIndex_eq ..

/-! ## The background -/

theorem bgIndex_eq (x y : Nat) (s : State) : bgIndex x y s =
    tileIndex (if s.ppuctrl.getLsbD 4 then 0x1000 else 0x0000) (ppuAt (0x2000 + (y >>> 3) * 32 + (x >>> 3)) s)
      (y &&& 7) (x &&& 7) s := by
  rw [and_seven_eq, and_seven_eq, Nat.shiftRight_eq_div_pow, Nat.shiftRight_eq_div_pow]
  rfl

/-- The quadrant's shift: bit 1 of the tile's row and column, as bits 2 and 1 (49 R366). -/
theorem quadrantShift_eq (row col : Nat) :
    (row &&& 2) <<< 1 ||| (col &&& 2) = row / 2 % 2 * 4 + col / 2 % 2 * 2 := by
  have hcol : col / 2 % 2 * 2 < 2 ^ 2 := by omega
  have hjoin := shiftLeft_or_eq (a := row / 2 % 2) hcol
  rw [Nat.shiftLeft_eq] at hjoin
  rw [and_two_eq, and_two_eq, Nat.shiftLeft_eq, Nat.mul_assoc]
  exact hjoin

theorem bgAttr_eq (x y : Nat) (s : State) : bgAttr x y s =
    (ppuAt (0x23C0 + ((y >>> 3) >>> 2) * 8 + ((x >>> 3) >>> 2)) s).toNat >>>
      (((y >>> 3) &&& 2) <<< 1 ||| ((x >>> 3) &&& 2)) &&& 3 := by
  rw [quadrantShift_eq, and_three_eq]
  simp only [Nat.shiftRight_eq_div_pow]
  rfl

theorem bgOff_iff (s : State) : bgOff s = true ↔ s.config.maskGates = true ∧ s.ppumask.getLsbD 3 = false := by
  rw [bgOff, Bool.and_eq_true, Bool.not_eq_true']

/-- Settles O50: the index is that of the tile's row and column, the attribute that of the block's quadrant. -/
theorem backgroundPixel : Obligations.BackgroundPixel := by
  intro s x y _ _
  refine ⟨_, _, _, _, _, _, _, rfl, rfl, rfl, rfl, rfl, rfl, rfl, ?_⟩
  simp only [background, bgOff_iff, bgIndex_eq, tileIndex_eq, bgAttr_eq]
  rfl

/-! ## The sprites -/

section
variable {i x y : Nat} {s : State}

/-- The sprite's box is 8 by 8 from its `X` and `Y` bytes (49 R371). -/
theorem covers_iff : covers i x y s = true ↔
    (spriteByte i 3 s).toNat ≤ x ∧ x < (spriteByte i 3 s).toNat + 8 ∧
    (spriteByte i 0 s).toNat ≤ y ∧ y < (spriteByte i 0 s).toNat + 8 := by
  simp only [covers, Bool.and_eq_true, decide_eq_true_eq, and_assoc]

theorem flipped_eq (flip : Bool) (k : Nat) (s : State) :
    flipped flip k s = if s.config.spriteFlip = true ∧ flip = true then 7 - k else k := by
  simp only [flipped, Bool.and_eq_true]

theorem flipped_le {k : Nat} (h : k ≤ 7) (flip : Bool) (s : State) : flipped flip k s ≤ 7 := by
  unfold flipped
  split
  · exact Nat.sub_le ..
  · exact h

/-- Settles O51: the box is 8 by 8, so that row and column are at most 7, mirrored or not. -/
theorem spriteColourIndex : Obligations.SpriteColourIndex := by
  intro s i x y _ hcovers
  obtain ⟨hx, hx', hy, hy'⟩ := covers_iff.1 hcovers
  have hcol : x - (spriteByte i 3 s).toNat ≤ 7 := by omega
  have hrow : y - (spriteByte i 0 s).toNat ≤ 7 := by omega
  exact ⟨_, _, _, _, _, _, rfl, rfl, flipped_eq .., flipped_eq .., flipped_le hcol .., flipped_le hrow .., rfl, rfl,
    tileIndex_eq ..⟩

theorem opaqueAt_iff : opaqueAt x y s i = true ↔ covers i x y s = true ∧ spriteIndex i x y s ≠ 0 := by
  rw [opaqueAt, Bool.and_eq_true, bne_iff_ne]

theorem spritesOff_iff (s : State) :
    spritesOff s = true ↔ s.config.maskGates = true ∧ s.ppumask.getLsbD 4 = false := by
  rw [spritesOff, Bool.and_eq_true, Bool.not_eq_true']

theorem foreground_of_on (h : spritesOff s = false) : foreground x y s = (List.range 64).find? (opaqueAt x y s) := by
  rw [foreground, h, if_neg Bool.false_ne_true]

/-- The foreground sprite is the first that covers the pixel and is not transparent there (49 R373). -/
theorem foreground_eq_some_iff (h : spritesOff s = false) :
    foreground x y s = some i ↔ i < 64 ∧ opaqueAt x y s i = true ∧ ∀ j, j < i → opaqueAt x y s j = false := by
  simp only [foreground_of_on h, List.find?_range_eq_some, List.mem_range, Bool.not_eq_true', and_left_comm]

theorem foreground_eq_none_iff (h : spritesOff s = false) :
    foreground x y s = none ↔ ∀ i, i < 64 → opaqueAt x y s i = false := by
  simp only [foreground_of_on h, List.find?_eq_none, List.mem_range, Bool.not_eq_true]

theorem pixelColour_of_none (h : foreground x y s = none) : pixelColour x y s = (background x y s).2 := by
  rw [pixelColour, h]

/-- A sprite behind the background shows where the background is transparent (49 R376). -/
theorem pixelColour_of_some (h : foreground x y s = some i) : pixelColour x y s =
    if (spriteByte i 2 s).getLsbD 5 = true ∧ (background x y s).1 ≠ 0 then (background x y s).2
    else spriteColour i x y s := by
  simp only [pixelColour, h, Bool.and_eq_true, bne_iff_ne]

theorem spriteColour_eq (i x y : Nat) (s : State) : spriteColour i x y s =
    ppuAt (0x3F10 + ((spriteByte i 2 s).toNat &&& 3) * 4 + spriteIndex i x y s) s := by
  rw [and_three_eq]
  rfl

end

/-- Settles O52: the choice is a search in index order, and the composition a case split on what it finds. -/
theorem spriteChoiceAndComposition : Obligations.SpriteChoiceAndComposition := by
  intro s x y _ _
  refine ⟨fun i _ => ?visible, fun hoff => ?off, fun hon => ?on, pixelColour_of_none,
    fun i hi => ⟨fun hbehind => ?behind, fun hfront => ?front⟩⟩
  case visible =>
    rw [opaqueAt_iff, covers_iff, and_assoc, and_assoc, and_assoc]
    rfl
  case off => rw [foreground, if_pos ((spritesOff_iff s).2 hoff)]
  case on =>
    have hon' : spritesOff s = false := by
      rw [← Bool.not_eq_true, spritesOff_iff, Decidable.not_and_iff_not_or_not, Bool.not_eq_true,
        Bool.not_eq_false]
      exact hon
    exact ⟨fun _ => foreground_eq_some_iff hon', foreground_eq_none_iff hon'⟩
  case behind => exact (pixelColour_of_some hi).trans (if_pos hbehind)
  case front =>
    rw [pixelColour_of_some hi, spriteColour_eq]
    refine if_neg fun ⟨hpriority, hindex⟩ => ?_
    exact hfront.elim (fun hclear => Bool.noConfusion (hpriority.symm.trans hclear)) hindex

/-! ## What a pixel depends on -/

/-- The states agree in what the pixels of the picture are computed from (49 R360). -/
structure SamePicture (s t : State) : Prop where
  config : s.config = t.config
  nt : s.nt = t.nt
  pal : s.pal = t.pal
  oam : s.oam = t.oam
  chr : s.chr = t.chr
  bgTable : s.ppuctrl.getLsbD 4 = t.ppuctrl.getLsbD 4
  spriteTable : s.ppuctrl.getLsbD 3 = t.ppuctrl.getLsbD 3
  mask : s.config.maskGates = true → s.ppumask.getLsbD 3 = t.ppumask.getLsbD 3 ∧
    s.ppumask.getLsbD 4 = t.ppumask.getLsbD 4

section
variable {s t : State} (h : SamePicture s t)
include h

theorem SamePicture.ppuAt_eq (addr : Nat) : ppuAt addr s = ppuAt addr t := by
  rw [ppuAt, ppuAt, ppuByte, ppuByte, h.config, h.nt, h.pal, h.chr]

theorem SamePicture.tileIndex_eq (base : Nat) (tile : Byte) (row col : Nat) :
    tileIndex base tile row col s = tileIndex base tile row col t := by
  rw [tileIndex, tileIndex, h.ppuAt_eq, h.ppuAt_eq]

theorem SamePicture.spriteByte_eq (i k : Nat) : spriteByte i k s = spriteByte i k t := by
  rw [spriteByte, spriteByte, h.oam]

theorem SamePicture.bgOff_eq : bgOff s = bgOff t := by
  rw [Bool.eq_iff_iff, bgOff_iff, bgOff_iff, ← h.config]
  exact and_congr_right fun hgates => by rw [(h.mask hgates).1]

theorem SamePicture.spritesOff_eq : spritesOff s = spritesOff t := by
  rw [Bool.eq_iff_iff, spritesOff_iff, spritesOff_iff, ← h.config]
  exact and_congr_right fun hgates => by rw [(h.mask hgates).2]

theorem SamePicture.background_eq (x y : Nat) : background x y s = background x y t := by
  simp only [background, bgIndex, bgAttr, h.bgOff_eq, h.bgTable, h.ppuAt_eq, h.tileIndex_eq]

theorem SamePicture.spriteIndex_eq (i x y : Nat) : spriteIndex i x y s = spriteIndex i x y t := by
  simp only [spriteIndex, flipped, h.config, h.spriteTable, h.spriteByte_eq, h.tileIndex_eq]

theorem SamePicture.opaqueAt_eq (x y : Nat) : opaqueAt x y s = opaqueAt x y t := by
  funext i
  simp only [opaqueAt, covers, h.spriteByte_eq, h.spriteIndex_eq]

theorem SamePicture.foreground_eq (x y : Nat) : foreground x y s = foreground x y t := by
  rw [foreground, foreground, h.spritesOff_eq, h.opaqueAt_eq]

theorem SamePicture.pixelColour_eq (x y : Nat) : pixelColour x y s = pixelColour x y t := by
  simp only [pixelColour, spriteColour, h.foreground_eq, h.background_eq, h.spriteByte_eq, h.spriteIndex_eq, h.ppuAt_eq]

end

/-- Settles O53: each part of the pixel's computation reads those fields only. -/
theorem pixelIsAPureFunction : Obligations.PixelIsAPureFunction :=
  fun _ _ x y _ _ config nt pal oam chr bgTable spriteTable mask =>
    SamePicture.pixelColour_eq { config, nt, pal, oam, chr, bgTable, spriteTable, mask } x y

end Sys2Proof.Machine
end

section
/-! Interrupt entry, the system tick, latched faults and the resets (60 R401 to R423, 70 R440 to R445). -/

namespace Sys2Proof.Machine

/-! ## Interrupt entry -/

/-- An interrupt entry through a vector of the upper half completes in every state, and this is all it does (60 R410,
R413). -/
theorem entry_eq {vector : Word} (h0 : 0x8000 ≤ vector.toNat) (h1 : 0x8000 ≤ (vector + 1#16).toNat)
    (cycles : Config → Nat) (s : State) :
    ∃ lo hi, plainByte vector s = some lo ∧ plainByte (vector + 1#16) s = some hi ∧
      andThen (enterVector s.pc (s.p.pack &&& 0xEF#8) vector s) (fun t => .next { t with rem := cycles t.config }) =
        .next { s with
          sp := s.sp - 3#8, ram := entryRam s.pc (s.p.pack &&& 0xEF#8) s, p := { s.p with i := true }
          pc := BitVec.ofNat 16 (lo.toNat + 256 * hi.toNat), rem := cycles s.config } := by
  obtain ⟨lo, hlo⟩ := plainByte_high_isSome s h0
  obtain ⟨hi, hhi⟩ := plainByte_high_isSome s h1
  refine ⟨lo, hi, hlo, hhi, ?_⟩
  rw [enterVector_eq h0 h1 hlo hhi, andThen_next, mkWord_eq]

/-- Settles O27: both entries are the one sequence, through vectors of the upper half. -/
theorem interruptEntry : Obligations.InterruptEntry := fun s =>
  ⟨_, rfl, entry_eq (vector := 0xFFFA#16) (by decide) (by decide) Config.nmiCycles s,
    entry_eq (vector := 0xFFFE#16) (by decide) (by decide) Config.irqCycles s⟩

/-! ## The cases of delivery and of the CPU's clock -/

section
variable {s : State}

theorem deliver_within (h : s.rem ≠ 0) : deliver s = .next s := by rw [deliver, if_neg h]

theorem deliver_nmi (h : s.rem = 0) (hnmi : s.nmi = true) : deliver s = nmiEntry { s with nmi := false } := by
  rw [deliver, if_pos h, if_pos hnmi]

theorem deliver_irq (h : s.rem = 0) (hnmi : s.nmi = false) (hirq : s.irq = true) (hi : s.p.i = false) :
    deliver s = irqEntry s := by
  simp [deliver, h, hnmi, hirq, hi]

theorem deliver_none (hnmi : s.nmi = false) (hirq : s.irq = false ∨ s.p.i = true) : deliver s = .next s := by
  rcases hirq with hirq | hi
  · simp [deliver, hnmi, hirq]
  · simp [deliver, hnmi, hi]

theorem cpuClock_counts (h : s.rem ≠ 0) : cpuClock s = .next { s with rem := s.rem - 1 } := by
  rw [cpuClock, if_neg h]

theorem cpuClock_fetches (h : s.rem = 0) : cpuClock s = fetchStep s := by rw [cpuClock, if_pos h]

/-- With no interrupt at a boundary a system tick is the fetching step, after the PPU's clocks. -/
theorem systemTick_of_runs (h : RunsInstruction s) : systemTick s = fetchStep (ppuTicks s) := by
  obtain ⟨-, hrem, hnmi, hirq⟩ := h
  have hdeliver : deliver (ppuTicks s) = .next (ppuTicks s) := deliver_none hnmi (by simpa using hirq)
  rw [systemTick, hdeliver, andThen_next, cpuClock_fetches (by simpa using hrem)]

end

/-! ## A step that is a tick -/

section
variable {s u : State} (hticks : Ticks s u) (hfault : latchedFault s = none)

include hticks in
theorem Ticks.latchedFault_eq : latchedFault u = latchedFault s := by
  rcases hticks with ⟨-, rfl⟩ | ⟨-, hu⟩
  · rfl
  · rw [hu]; rfl

include hticks in
theorem Ticks.epoch_eq : u.epoch = s.epoch := by
  rcases hticks with ⟨-, rfl⟩ | ⟨-, hu⟩
  · rfl
  · rw [hu]

include hticks hfault

theorem step_of_systemTick {t : State} (h : systemTick u = .next t) : step s = .next t := by
  rw [step_ticks hticks hfault, h]; rfl

theorem step_of_systemTick_fault {f : Fault} (h : systemTick u = .fault f) : step s = .next (latchFault f u) := by
  rw [step_ticks hticks hfault, h]; rfl

/-- After a delivery the CPU's clock of the same tick follows, which counts the entry's cycles down (60 R420). -/
theorem step_of_entry {e : State} {n : Nat} (h : deliver (ppuTicks u) = .next e) (hrem : e.rem = n) :
    (∀ t, cpuClock e = .next t → step s = .next t) ∧ (0 < n → step s = .next { e with rem := n - 1 }) := by
  have hstep : ∀ t, cpuClock e = .next t → step s = .next t := fun t ht =>
    step_of_systemTick hticks hfault (by rw [systemTick, h, andThen_next, ht])
  refine ⟨hstep, fun hn => ?_⟩
  subst hrem
  exact hstep _ (cpuClock_counts (Nat.ne_of_gt hn))

end

/-- Settles O29: each case is one of delivery's, followed by the CPU's clock. -/
theorem tickRetiresOrDelivers : Obligations.TickRetiresOrDelivers := by
  intro s u hticks hfault
  refine ⟨fun hrem => ?within, fun hrem hnmi => ?nmi, fun hrem hnmi hirq hi => ?irq,
    fun hruns i f t hfetch hexec => ?runs⟩
  case within =>
    have hrem' : (ppuTicks u).rem ≠ 0 := by rwa [ppuTicks_rem]
    have hclock := cpuClock_counts hrem'
    rw [ppuTicks_rem] at hclock
    exact step_of_systemTick hticks hfault (by rw [systemTick, deliver_within hrem', andThen_next, hclock])
  case nmi =>
    obtain ⟨_, -, ⟨_, _, -, -, hentry⟩, -⟩ := interruptEntry { ppuTicks u with nmi := false }
    have hdeliver := (deliver_nmi (by rwa [ppuTicks_rem]) hnmi).trans hentry
    exact ⟨_, hentry, step_of_entry hticks hfault hdeliver (congrArg Config.nmiCycles (ppuTicks_config u))⟩
  case irq =>
    obtain ⟨_, -, -, ⟨_, _, -, -, hentry⟩⟩ := interruptEntry (ppuTicks u)
    have hdeliver : deliver (ppuTicks u) = irqEntry (ppuTicks u) :=
      deliver_irq (by rwa [ppuTicks_rem]) hnmi (by rwa [ppuTicks_irq]) (by rwa [ppuTicks_p])
    exact ⟨_, hentry,
      step_of_entry hticks hfault (hdeliver.trans hentry) (congrArg Config.irqCycles (ppuTicks_config u))⟩
  case runs =>
    exact step_of_systemTick hticks hfault (by rw [systemTick_of_runs hruns, fetchStep, hfetch, andThen_next, hexec])

/-! ## Faults -/

theorem latchedFault_latchFault (f : Fault) (s : State) : latchedFault (latchFault f s) = some f := by
  rw [latchedFault, latchFault_cpuFault]

/-- With no fault latched the PPU's latch is clear. -/
theorem ppuFault_of_latchedFault_none {s : State} (h : latchedFault s = none) : s.ppuFault = none := by
  unfold latchedFault at h
  split at h
  · nomatch h
  · exact h

/-- Settles O58: the guard of the three calls, the stop of a latched machine, and what latching sets. -/
theorem faultsAreFinal : Obligations.FaultsAreFinal := by
  intro s
  refine ⟨fun f hhost hf => step_latched hhost hf, fun cmd rest hcmd hhost hf => ?call,
    fun u f hticks hnone hfault => ?raised⟩
  case call =>
    obtain ⟨f, hf⟩ := Option.ne_none_iff_exists'.1 hf
    exact step_call_latched hcmd hhost hf
  case raised =>
    have hppu : u.ppuFault = none := ppuFault_of_latchedFault_none (hticks.latchedFault_eq.trans hnone)
    have hepoch : (latchFault f u).epoch = s.epoch + 1 := by rw [latchFault_epoch, hticks.epoch_eq]
    refine ⟨_, step_of_systemTick_fault hticks hnone hfault, latchFault_cpuFault f u, fun hbus => ?ppuBus,
      fun hbus => ?cpuBus, hepoch, latchFault_host f u, fun hhost => ?stops⟩
    case ppuBus => rw [latchFault_ppuFault, if_pos hbus]
    case cpuBus => rw [latchFault_ppuFault, if_neg (by rw [hbus]; decide), hppu]
    case stops => exact step_latched (by rw [latchFault_host, hhost]) (latchedFault_latchFault f u)

/-! ## No instruction is refused -/

/-- The operation ends with a value or with a fault. -/
def Unrefused {α : Type} (r : Res α) : Prop := ∀ e, r ≠ .refused e

theorem unrefused_next {α : Type} (a : α) : Unrefused (.next a : Res α) := nofun

theorem unrefused_fault {α : Type} (f : Fault) : Unrefused (.fault f : Res α) := nofun

theorem unrefused_andThen {α β : Type} {r : Res α} {f : α → Res β} (hr : Unrefused r)
    (hf : ∀ a, Unrefused (f a)) : Unrefused (andThen r f) := by
  cases r with
  | next a => exact hf a
  | fault f => exact unrefused_fault f
  | refused e => exact absurd rfl (hr e)

/-- Operations in sequence, the last of which only computes. -/
theorem unrefused_andThen_next {α β : Type} {r : Res α} {f : α → β} (hr : Unrefused r) :
    Unrefused (andThen r fun a => .next (f a)) :=
  unrefused_andThen hr fun _ => unrefused_next _

theorem memRead_unrefused (addr : Word) (s : State) : Unrefused (memRead addr s) := by
  unfold memRead
  split
  case h_4 k _ =>
    obtain ⟨b, t, hread⟩ := ppuReadReg_next k s
    rw [hread]
    exact unrefused_next _
  case h_6 => exact unrefused_fault _
  all_goals exact unrefused_next _

theorem ppuWrite_unrefused (addr : Word) (b : Byte) (s : State) : Unrefused (ppuWrite addr b s) := by
  unfold ppuWrite
  split
  · split
    · split
      · exact unrefused_next _
      · exact unrefused_fault _
    · exact unrefused_next _
    · exact unrefused_next _
  · exact unrefused_fault _

theorem ppuWriteReg_unrefused (k : BitVec 3) (b : Byte) (s : State) : Unrefused (ppuWriteReg k b s) := by
  unfold ppuWriteReg
  split
  · exact unrefused_next _
  · split
    case h_7 => exact unrefused_andThen_next (ppuWrite_unrefused _ _ _)
    all_goals exact unrefused_next _

theorem memWrite_unrefused (addr : Word) (b : Byte) (s : State) : Unrefused (memWrite addr b s) := by
  unfold memWrite
  split
  case h_3 => exact unrefused_fault _
  case h_4 k _ => exact ppuWriteReg_unrefused k b s
  case h_6 => exact unrefused_fault _
  all_goals exact unrefused_next _

theorem operand_unrefused (m : Mode) (s : State) : Unrefused (operand m s) := by
  unfold operand
  split
  · exact unrefused_next _
  · exact memRead_unrefused _ _

theorem result_unrefused (m : Mode) (b : Byte) (s : State) : Unrefused (result m b s) := by
  unfold result
  split
  · exact unrefused_next _
  · exact memWrite_unrefused _ _ _

/-- Only IND's resolver can stop, at an address that reaches nothing. -/
theorem resolve_unrefused (i : Instr) (s : State) : Unrefused (resolve i s) := by
  by_cases hm : i.entry.mode = .ind
  · obtain ⟨ptr, rfl⟩ := mode_ind hm
    exact unrefused_andThen (memRead_unrefused _ _) fun _ => unrefused_andThen_next (memRead_unrefused _ _)
  · obtain ⟨x1, ea, opv, hres⟩ := resolve_next hm s
    rw [hres]
    exact unrefused_next _

/-- The handlers that access memory at `ea` stop with the access only; the others complete. -/
theorem execute_unrefused (k : Mnemonic) (m : Mode) (s : State) : Unrefused (execute k m s) := by
  have hcomplete {r : Nat × State} (h : execute k m s = .next r) : Unrefused (execute k m s) := h ▸ unrefused_next r
  rcases mnemonic_shapes k with hk | hk | hk | hk | hk | hk | rfl | rfl | rfl | rfl | rfl | rfl | rfl | rfl
  · exact execute_read hk m s ▸ unrefused_andThen_next (operand_unrefused m s)
  · exact execute_store hk m s ▸ unrefused_andThen_next (memWrite_unrefused _ _ _)
  · exact execute_shift hk m s ▸ unrefused_andThen (operand_unrefused m s) fun _ =>
      unrefused_andThen_next (result_unrefused _ _ _)
  · exact execute_incDec hk m s ▸ unrefused_andThen (memRead_unrefused _ _) fun _ =>
      unrefused_andThen_next (memWrite_unrefused _ _ _)
  · exact hcomplete (execute_register hk m s)
  · obtain ⟨x2, pc, hbranch, -⟩ := branchIf_eq (branchCond k s.p) s
    exact hcomplete ((execute_branch hk m s).trans hbranch)
  · exact hcomplete (execute_pha m s)
  · exact hcomplete (execute_php m s)
  · exact hcomplete (execute_pla m s)
  · exact hcomplete (execute_plp m s)
  · exact hcomplete (execute_jsr m s)
  · exact hcomplete (execute_rts m s)
  · obtain ⟨lo, hi, -, -, hbrk⟩ := execute_brk m s
    exact hcomplete hbrk
  · exact hcomplete (execute_rti m s)

theorem exec_unrefused (i : Instr) (s : State) : Unrefused (exec i s) :=
  exec_eq i s ▸ unrefused_andThen (resolve_unrefused _ _) fun _ => unrefused_andThen_next (execute_unrefused _ _ _)

/-! ## The fetched instruction -/

/-- A fetch from plain memory that holds a well-formed instruction's bytes gives the instruction and changes nothing, by
the format of the opcode's row (40 R134). -/
theorem fetch_of_holdsBytes {i : Instr} {s : State} (hi : i.WellFormed = true) (h : HoldsBytes s.pc (encode i) s) :
    fetch s = .next (i, s) := by
  obtain ⟨hop, hoperand⟩ := h
  have hrow := Laws.Row.statement i
  unfold Laws.Row.Statement at hrow
  unfold Instr.WellFormed at hi
  split at hrow
  case h_1 => exact hrow.elim
  case h_2 j ht =>
    obtain ⟨-, rfl⟩ := hrow
    rw [fetch_of_holds ht hop]; rfl
  case h_3 f ht =>
    obtain ⟨b, ho, hf⟩ := hrow
    rw [ho] at hoperand
    obtain ⟨hb, -⟩ := hoperand
    rw [fetch_of_holds ht hop, fetchOperand, memRead_plain hb, andThen_next, hf]
  case h_4 f ht =>
    obtain ⟨d, ho, hf⟩ := hrow
    rw [ho] at hoperand hi
    obtain ⟨hb, -⟩ := hoperand
    rw [fetch_of_holds ht hop, fetchOperand, memRead_plain hb, andThen_next, toInt_ofInt_of_wellFormed hi, hf]
  case h_5 f ht =>
    obtain ⟨w, ho, hf⟩ := hrow
    rw [ho] at hoperand
    obtain ⟨hlo, hhi, -⟩ := hoperand
    rw [fetch_of_holds ht hop, fetchOperand, read16_plain hlo hhi, andThen_next, mkWord_loByte_hiByte, hf]

/-- Settles O30: the tick is the fetching step, and its fetch gives the instruction that stands at `PC`. -/
theorem stepRunsDecodedInstruction : Obligations.StepRunsDecodedInstruction := by
  intro s u i hticks hruns hi hbytes
  have hnone : latchedFault s = none := hticks.latchedFault_eq.symm.trans hruns.1
  have hbytes' : HoldsBytes (ppuTicks u).pc (encode i) (ppuTicks u) := by
    rw [ppuTicks_pc]
    exact holdsBytes_ppuTicks hbytes
  have htick : systemTick u = exec i (ppuTicks u) := by
    rw [systemTick_of_runs hruns, fetchStep, fetch_of_holdsBytes hi hbytes', andThen_next]
  exact ⟨fun t ht => step_of_systemTick hticks hnone (htick.trans ht),
    fun f hf => ⟨_, step_of_systemTick_fault hticks hnone (htick.trans hf), latchFault_cpuFault f u⟩,
    exec_unrefused i (ppuTicks u)⟩

/-! ## Resets -/

/-- A step that makes a call of the host that completes. -/
theorem step_of_hostStrobe {s t : State} {cmd : HostCmd} {rest : List HostCmd} (hhost : s.host = cmd :: rest)
    (h : hostStrobe cmd { s with host := rest } = .next t) : step s = .next t := by
  rw [step_host hhost, h]; rfl

section
variable {s : State} {lo hi : Byte} (hlo : plainByte 0xFFFC#16 s = some lo) (hhi : plainByte 0xFFFD#16 s = some hi)
include hlo hhi

theorem loadResetVector_eq : andThen (read16 0xFFFC#16 s) (fun r => .next { r.2 with pc := r.1 }) =
    (.next { s with pc := BitVec.ofNat 16 (lo.toNat + 256 * hi.toNat) } : Res State) := by
  rw [read16_plain hlo hhi, andThen_next, mkWord_eq]

theorem powerUp_eq : powerUp s = .next { s with
    cpuFault := none, a := 0x00#8, x := 0x00#8, y := 0x00#8, sp := 0xFD#8, p := Flags.reset
    opcode := 0x00#8, ea := 0x0000#16, opv := 0x0000#16, rem := 0
    pc := BitVec.ofNat 16 (lo.toNat + 256 * hi.toNat) } :=
  loadResetVector_eq (s := { s with
    cpuFault := none, a := 0x00#8, x := 0x00#8, y := 0x00#8, sp := 0xFD#8, p := Flags.reset
    opcode := 0x00#8, ea := 0x0000#16, opv := 0x0000#16, rem := 0 }) hlo hhi

theorem warmReset_eq (hfault : s.cpuFault = none) : warmReset s = .next { s with
    sp := s.sp - 3#8, p := { s.p with i := true }, rem := 0
    pc := BitVec.ofNat 16 (lo.toNat + 256 * hi.toNat) } := by
  unfold warmReset
  split
  case h_1 hlatched => nomatch hfault.symm.trans hlatched
  case h_2 =>
    exact loadResetVector_eq (s := { s with sp := s.sp - 3#8, p := { s.p with i := true }, rem := 0 }) hlo hhi

end

theorem warmReset_latched {s : State} (h : s.cpuFault ≠ none) : warmReset s = .next s := by
  obtain ⟨f, hf⟩ := Option.ne_none_iff_exists'.1 h
  rw [warmReset, hf]

/-- Settles O55: the vector is plain memory in both bus maps, and no register a reset sets is part of it. -/
theorem cpuResetStrobes : Obligations.CpuResetStrobes := by
  intro s rest
  obtain ⟨lo, hlo⟩ := plainByte_high_isSome (addr := 0xFFFC#16) s (by decide)
  obtain ⟨hi, hhi⟩ := plainByte_high_isSome (addr := 0xFFFD#16) s (by decide)
  exact ⟨lo, hi, hlo, hhi, fun hhost => step_of_hostStrobe hhost (powerUp_eq (s := { s with host := rest }) hlo hhi),
    fun hhost hfault => step_of_hostStrobe hhost (warmReset_latched (s := { s with host := rest }) hfault),
    fun hhost hfault => step_of_hostStrobe hhost (warmReset_eq (s := { s with host := rest }) hlo hhi hfault)⟩

/-- Settles O56: the strobe always completes, with the reset's own update. -/
theorem ppuResetStrobe : Obligations.PpuResetStrobe := fun _ _ hhost => step_of_hostStrobe hhost rfl

end Sys2Proof.Machine
end

section
/-! The conformance harness over the flat map (60 R437): what a load leaves in the registers and in memory, and that the
read-out gives it back. -/

namespace Sys2Proof.Machine

/-- A placed byte changes plain memory only. -/
theorem poke_effect (addr : Word) (value : Byte) (s : State) : poke addr value s = { s with
    ram := (poke addr value s).ram, prgRam := (poke addr value s).prgRam, prgRom := (poke addr value s).prgRom } := by
  unfold poke
  split <;> rfl

/-- So do many. -/
theorem pokes_effect : ∀ (cs : List (Word × Byte)) (s : State), pokes cs s = { s with
    ram := (pokes cs s).ram, prgRam := (pokes cs s).prgRam, prgRom := (pokes cs s).prgRom }
  | [], _ => rfl
  | c :: cs, s => by
    have htail := pokes_effect cs (poke c.1 c.2 s)
    rw [poke_effect c.1 c.2 s] at htail
    rw [pokes, poke_effect c.1 c.2 s]
    exact htail

section Flat
variable {s : State} (hb : s.config.bus = .flat64k)
include hb

theorem poke_flat (addr : Word) (value : Byte) :
    poke addr value s = { s with ram := s.ram.write addr.toNat value } := by rw [poke, route_flat hb]

theorem plainByte_poke (addr other : Word) (value : Byte) :
    plainByte other (poke addr value s) = some ((s.ram.write addr.toNat value).read other.toNat) := by
  rw [poke_flat hb]
  exact plainByte_flat (s := { s with ram := s.ram.write addr.toNat value }) hb other

theorem plainByte_poke_same (hs : StateInv s) (addr : Word) (value : Byte) :
    plainByte addr (poke addr value s) = some value := by
  rw [plainByte_poke hb, Memory.read_write_same hs.ram]

theorem plainByte_poke_other {addr other : Word} (hne : other ≠ addr) (value : Byte) :
    plainByte other (poke addr value s) = plainByte other s := by
  have hne' : other.toNat ≠ addr.toNat := fun h => hne (BitVec.eq_of_toNat_eq h)
  rw [plainByte_poke hb, plainByte_flat hb, Memory.read_write_other _ hne']

end Flat

theorem poke_config (addr : Word) (value : Byte) (s : State) : (poke addr value s).config = s.config := by
  rw [poke_effect]

/-- An address outside the list keeps its byte. -/
theorem plainByte_pokes_other {addr : Word} : ∀ {cs : List (Word × Byte)} {s : State}, s.config.bus = .flat64k →
    addr ∉ cs.map (·.1) → plainByte addr (pokes cs s) = plainByte addr s
  | [], _, _, _ => rfl
  | c :: cs, s, hb, hout => by
    obtain ⟨hne, hout'⟩ := not_or.1 (hout ∘ List.mem_cons.2)
    have hb' : (poke c.1 c.2 s).config.bus = .flat64k := by rw [poke_config, hb]
    exact (plainByte_pokes_other hb' hout').trans (plainByte_poke_other hb hne c.2)

/-- With no address repeated, each listed address holds its byte. -/
theorem plainByte_pokes : ∀ {cs : List (Word × Byte)} {s : State}, StateInv s → s.config.bus = .flat64k →
    (cs.map (·.1)).Nodup → ∀ c ∈ cs, plainByte c.1 (pokes cs s) = some c.2
  | [], _, _, _, _ => nofun
  | d :: cs, s, hs, hb, hnodup => by
    obtain ⟨hout, hnodup'⟩ := List.nodup_cons.1 hnodup
    have hb' : (poke d.1 d.2 s).config.bus = .flat64k := by rw [poke_config, hb]
    have hhead := (plainByte_pokes_other hb' hout).trans (plainByte_poke_same hb hs d.1 d.2)
    exact List.forall_mem_cons.2 ⟨hhead, plainByte_pokes (poke_inv d.1 d.2 hs) hb' hnodup'⟩

/-- The read-out of the listed addresses, each of which holds its byte, is the list. -/
theorem readOut_eq {cs : List (Word × Byte)} {s : State} (h : ∀ c ∈ cs, plainByte c.1 s = some c.2) :
    (cs.map (·.1)).filterMap (fun addr => (plainByte addr s).map fun b => (addr, b)) = cs := by
  induction cs with
  | nil => rfl
  | cons c cs ih =>
    obtain ⟨hc, hcs⟩ := List.forall_mem_cons.1 h
    rw [List.map_cons, List.filterMap_cons, hc, ih hcs]
    rfl

/-- The registers of a harness state loaded, before its memory pairs. -/
def loadRegisters (h : Harness) (s : State) : State :=
  { s with pc := h.pc, sp := h.s, a := h.a, x := h.x, y := h.y, p := Flags.unpack h.p, rem := 0 }

theorem harnessLoad_eq (h : Harness) (s : State) : harnessLoad h s = pokes h.ram (loadRegisters h s) := rfl

/-- The memory pairs change no register. -/
theorem harnessRead_pokes (addrs : List Word) (cs : List (Word × Byte)) (s : State) :
    harnessRead addrs (pokes cs s) = { harnessRead addrs s with
      ram := addrs.filterMap fun addr => (plainByte addr (pokes cs s)).map fun b => (addr, b) } := by
  rw [harnessRead, pokes_effect]
  rfl

/-- Settles O59: the registers are read out as loaded, and each address holds the byte of its one pair. -/
theorem harnessRoundTrip : Obligations.HarnessRoundTrip := by
  intro s t h rest hs hb hnodup hhost hstep
  have hload : step s = .next (harnessLoad h { s with host := rest }) := step_of_hostStrobe hhost rfl
  cases hstep.symm.trans hload
  have hs' : StateInv (loadRegisters h { s with host := rest }) := { hs with rem := Nat.zero_le _ }
  have hram := readOut_eq (plainByte_pokes hs' hb hnodup)
  refine ⟨?rem, ?read⟩
  case rem => rw [harnessLoad_eq, pokes_effect]; rfl
  case read =>
    rw [harnessLoad_eq, harnessRead_pokes, hram, ← pack_unpack]
    rfl

end Sys2Proof.Machine
end
